-- ==== Sys2Proof/Word.lean ====
section
/-! DEFINITION. The data of the engine: one byte (R33: every data value is a single byte) and the
19-byte buffer (R10), plus the fixed parameters of R3 that name a width or a count. -/

namespace Sys2Proof

/-- An unsigned 8-bit value (parameter `W` of R3). -/
abbrev Byte := BitVec 8

/-- A sequence of 19 bytes, position 0 first (R10, R33; parameter `N` of R3). -/
abbrev Buffer := Vector Byte 19

/-- A micro-operation code (parameter `UOPW` of R3, R50). -/
abbrev UCode := BitVec 4

/-- The declared length `n` of a SUBMIT (parameter `LENW` of R3, R41). -/
abbrev Len := BitVec 8

end Sys2Proof
end

