-- ==== Sys2Proof/Syntax.lean ====
section
/-! DEFINITION. The instructions: one constructor for each of the 14 rows of the opcode table (R51
and R52), the fields of a SUBMIT command, and what the host can do at its interface. -/

namespace Sys2Proof

/-- The two sequences of R1; `DIR` and the `inv` bit select one of them (R13, R50). -/
inductive Direction where
  | forward
  | inverse
deriving DecidableEq, Repr

/-- The six stages in the forward numbering 1 to 6 (R1, R50). -/
inductive Stage where
  | xorSwap
  | blockXor
  | blockReverse
  | indexedRotate
  | constantAdd
  | nibbleSwap
deriving DecidableEq, Repr

/-- The instructions. The twelve micro-operations have no operand (R53). The two commands are the
SUBMIT carrier of R52 with `dir` 0 and 1: they keep the declared length `n` and the payload `d`,
because every `n` is a legal encoding and `n ≠ 19` selects the ShapeError path (R55). -/
inductive Instr where
  | xswF
  | bxrF
  | brvF
  | irtF
  | cadF
  | nswF
  | xswI
  | bxrI
  | brvI
  | irtI
  | cadI
  | nswI
  | forward (n : Len) (d : Buffer)
  | invert (n : Len) (d : Buffer)
deriving DecidableEq, Repr

/-- The fields of a SUBMIT as they travel on the command port (R41, R52). -/
structure Command where
  /-- Field `dir`: 0 forward, 1 inverse. -/
  dir : BitVec 1
  /-- Field `n`: the declared length. -/
  n : Len
  /-- Field `d`: `d[i]` is destined for `BUF[i]`. -/
  d : Buffer
deriving DecidableEq, Repr

end Sys2Proof
end

