-- ==== Sys2Proof/WellFormed.lean ====
section
/-! DEFINITION. Well-formedness in the specification's own sense: a SUBMIT is well-formed when its
declared length is 19 (R12, R13, R111, R112). It is not a condition of decoding or of running: a
malformed command decodes and runs, and its effect is ShapeError. -/

namespace Sys2Proof

/-- A SUBMIT is well-formed when it declares 19 bytes (R111, R112). -/
def Command.wellFormed (c : Command) : Bool := c.n == 19

/-- A micro-operation has no field that could be wrong (R53); a command is well-formed when it
declares 19 bytes. -/
def Instr.wellFormed : Instr → Bool
  | .xswF | .bxrF | .brvF | .irtF | .cadF | .nswF => true
  | .xswI | .bxrI | .brvI | .irtI | .cadI | .nswI => true
  | .forward n _ => n == 19
  | .invert n _ => n == 19

/-- A micro-operation code is well-formed when its stage number is 1 to 6; the four others are
reserved (R55). -/
def UCode.wellFormed (c : UCode) : Bool :=
  let stg := c.toNat % 8
  stg != 0 && stg != 7

end Sys2Proof
end

