-- ==== Sys2Proof/Decode.lean ====
section
/-! DEFINITION. The two formats: `U`, a 4-bit code with the fields `inv` and `stg` (R50, R51), and
`CMD`, the three fields of a SUBMIT (R52). The decoder is total and rejects the four reserved codes
by name (R55); the encoder is written from the same tables. -/

namespace Sys2Proof

/-- What travels on the two instruction carriers: the micro-program space holds format `U`, the
command port holds format `CMD` (R50, R52). -/
inductive Code where
  | u (code : UCode)
  | cmd (c : Command)
deriving DecidableEq, Repr

/-- The decoder's answer (R55): an instruction, or `Reserved` with the code. -/
inductive Decoded where
  | instr (i : Instr)
  | reserved (code : UCode)
deriving DecidableEq, Repr

/-- The 1-bit value of a direction: 0 forward, 1 inverse (R13, R50, R52). -/
def Direction.code : Direction → BitVec 1
  | .forward => 0
  | .inverse => 1

/-- The direction a 1-bit field selects (R13, R50, R52). -/
def Direction.ofCode (b : BitVec 1) : Direction :=
  if b = 0 then .forward else .inverse

/-- The field `stg`, bits 2:0 of a format-`U` code (R50). -/
def UCode.stg (c : UCode) : BitVec 3 := c.extractLsb' 0 3

/-- The field `inv`, bit 3 of a format-`U` code (R50). -/
def UCode.inv (c : UCode) : BitVec 1 := c.extractLsb' 3 1

/-- The stage number of the source (R50). -/
def Stage.number : Stage → BitVec 3
  | .xorSwap => 1
  | .blockXor => 2
  | .blockReverse => 3
  | .indexedRotate => 4
  | .constantAdd => 5
  | .nibbleSwap => 6

/-- The stage a field `stg` names; 0 and 7 name none (R50, R55). -/
def Stage.ofNumber (stg : BitVec 3) : Option Stage :=
  match stg.toNat with
  | 1 => some .xorSwap
  | 2 => some .blockXor
  | 3 => some .blockReverse
  | 4 => some .indexedRotate
  | 5 => some .constantAdd
  | 6 => some .nibbleSwap
  | _ => none

/-- The micro-operation of a stage in a direction (R51). -/
def Instr.ofStage : Stage → Direction → Instr
  | .xorSwap, .forward => .xswF
  | .blockXor, .forward => .bxrF
  | .blockReverse, .forward => .brvF
  | .indexedRotate, .forward => .irtF
  | .constantAdd, .forward => .cadF
  | .nibbleSwap, .forward => .nswF
  | .xorSwap, .inverse => .xswI
  | .blockXor, .inverse => .bxrI
  | .blockReverse, .inverse => .brvI
  | .indexedRotate, .inverse => .irtI
  | .constantAdd, .inverse => .cadI
  | .nibbleSwap, .inverse => .nswI

/-- `decode_U` of the encoding file, section 3 (R50, R51, R55). -/
def decodeU (code : UCode) : Decoded :=
  match Stage.ofNumber code.stg with
  | none => .reserved code
  | some stage => .instr (Instr.ofStage stage (Direction.ofCode code.inv))

/-- Format `CMD`: `dir = 0` is FORWARD and `dir = 1` is INVERT; every value of every field is legal
(R52, R55). -/
def decodeCommand (c : Command) : Instr :=
  match Direction.ofCode c.dir with
  | .forward => .forward c.n c.d
  | .inverse => .invert c.n c.d

/-- The decoder over both formats. -/
def decode : Code → Decoded
  | .u code => decodeU code
  | .cmd c => .instr (decodeCommand c)

/-- A format-`U` code from its two fields (R50). -/
def UCode.ofFields (stage : Stage) (dir : Direction) : UCode := dir.code ++ stage.number

/-- The encoder: the code of a micro-operation (R51), the fields of a command (R52). -/
def encode : Instr → Code
  | .xswF => .u (UCode.ofFields .xorSwap .forward)
  | .bxrF => .u (UCode.ofFields .blockXor .forward)
  | .brvF => .u (UCode.ofFields .blockReverse .forward)
  | .irtF => .u (UCode.ofFields .indexedRotate .forward)
  | .cadF => .u (UCode.ofFields .constantAdd .forward)
  | .nswF => .u (UCode.ofFields .nibbleSwap .forward)
  | .xswI => .u (UCode.ofFields .xorSwap .inverse)
  | .bxrI => .u (UCode.ofFields .blockXor .inverse)
  | .brvI => .u (UCode.ofFields .blockReverse .inverse)
  | .irtI => .u (UCode.ofFields .indexedRotate .inverse)
  | .cadI => .u (UCode.ofFields .constantAdd .inverse)
  | .nswI => .u (UCode.ofFields .nibbleSwap .inverse)
  | .forward n d => .cmd { dir := 0, n := n, d := d }
  | .invert n d => .cmd { dir := 1, n := n, d := d }

/-- The `CMD` code of a table row: the row gives `dir` its one bit, fixes the separate field `n` at
19, and gives the payload no bits, so the payload is zeros. -/
def tableCommand (dir : BitVec 1) : Code :=
  .cmd { dir := dir, n := 19, d := Vector.replicate 19 0 }

/-- The code that a word of the opcode table stands for. A row of 4 bits is format `U` and a row of
1 bit is format `CMD`. In a word padded to one byte the two formats overlap, since their rows lie on
different ports: the word is read as format `U` unless that code is reserved, and then as format
`CMD` (log entry 5). -/
def tableWordCode (nbits w : Nat) : Option Code :=
  match nbits with
  | 1 => if w < 2 then some (tableCommand (BitVec.ofNat 1 w)) else none
  | 4 => if w < 16 then some (.u (BitVec.ofNat 4 w)) else none
  | 8 =>
    if w < 16 then
      if w < 2 && !(UCode.wellFormed (BitVec.ofNat 4 w)) then
        some (tableCommand (BitVec.ofNat 1 w))
      else some (.u (BitVec.ofNat 4 w))
    else none
  | _ => none

/-- The instruction the decoder reads from a word of the opcode table; none where it refuses. -/
def decodeTableWord (nbits w : Nat) : Option Instr :=
  match tableWordCode nbits w with
  | none => none
  | some c =>
    match decode c with
    | .instr i => some i
    | .reserved _ => none

end Sys2Proof
end

