-- ==== Sys2Proof/Machine/Operands.lean ====
section
/-! DEFINITION. The operands of the stages: the byte primitives of R4 to R8 and the constant tables
of R15 to R19. No micro-operation has any other operand (R53), and nothing writes a table (R32,
R40). -/

namespace Sys2Proof.Machine

/-- `xor8` (R4). -/
def xor8 (a b : Byte) : Byte := a ^^^ b

/-- `add8`, modulo 256 (R5). -/
def add8 (a c : Byte) : Byte := BitVec.ofNat 8 ((a.toNat + c.toNat) % 256)

/-- `sub8`, modulo 256 (R5). -/
def sub8 (a c : Byte) : Byte := BitVec.ofInt 8 (((a.toNat : Int) - (c.toNat : Int)) % 256)

/-- `rol8` for a shift in 0..7, on the byte widened to 16 bits (R6). -/
def rol8 (b : Byte) (s : BitVec 3) : Byte :=
  if s = 0 then b
  else
    let w : BitVec 16 := b.setWidth 16
    ((w <<< s.toNat) ||| (w >>> (8 - s.toNat))).setWidth 8

/-- `ror8` for a shift in 0..7, on the byte widened to 16 bits (R6). -/
def ror8 (b : Byte) (s : BitVec 3) : Byte :=
  if s = 0 then b
  else
    let w : BitVec 16 := b.setWidth 16
    ((w >>> s.toNat) ||| (w <<< (8 - s.toNat))).setWidth 8

/-- `swap4`, on the byte widened to 16 bits (R7). -/
def swap4 (b : Byte) : Byte :=
  let w : BitVec 16 := b.setWidth 16
  (((w <<< 4) &&& 0xf0) ||| ((w >>> 4) &&& 0x0f)).setWidth 8

/-- `shift(i)`, the source's formula (R8). -/
def shift (i : Nat) : Nat :=
  let r := (i + 1) % 256
  if i % 2 = 0 then
    let q := i / 7
    ((((r : Int) - 7 * q) % 256) % 8).toNat
  else
    let q := i / 5
    ((((r : Int) - 5 * q) % 256) % 8).toNat

/-- `X[0..2]`, the XorSwap constants by original position (R15). -/
def tableX : Vector Byte 3 := #v[0x42, 0x59, 0x70]

/-- `K[0..15]`, the BlockXor key (R16). -/
def tableK : Vector Byte 16 :=
  #v[0x87, 0x9e, 0xb5, 0xcc, 0xe3, 0xfa, 0x11, 0x28,
     0x3f, 0x56, 0x6d, 0x84, 0x9b, 0xb2, 0xc9, 0xe0]

/-- `C[0..15]`, the ConstantAdd table of the block (R17). -/
def tableC : Vector Byte 16 :=
  #v[0x33, 0xcc, 0x35, 0xca, 0x37, 0xc8, 0x39, 0xc6,
     0x3b, 0xc4, 0x3d, 0xc2, 0x3f, 0xc0, 0x41, 0xbe]

/-- `T[16..18]`, the ConstantAdd constants of the tail, here from index 0 (R17). -/
def tableT : Vector Byte 3 := #v[0x43, 0xbc, 0x45]

/-- The unified table `A[0..18]` (R17). -/
def tableA : Buffer := tableC ++ tableT

/-- `SH[0..18]`, the IndexedRotate shifts as R18 prints them. -/
def tableSH : Vector (BitVec 3) 19 :=
  #v[1, 2, 3, 4, 5, 1, 7, 3, 2, 5, 4, 2, 6, 4, 1, 1, 3, 3, 5]

/-- A rotation direction (R18). -/
inductive Rotation where
  | left
  | right
deriving DecidableEq, Repr

/-- `RD[i]`, the forward rotation direction: left on even lanes, right on odd lanes (R18). -/
def tableRD (i : Nat) : Rotation := if i % 2 = 0 then .left else .right

/-- The opposite rotation direction (R18, R92). -/
def Rotation.opposite : Rotation → Rotation
  | .left => .right
  | .right => .left

/-- A byte rotated in a given direction (R6). -/
def Rotation.apply (r : Rotation) (b : Byte) (s : BitVec 3) : Byte :=
  match r with
  | .left => rol8 b s
  | .right => ror8 b s

/-- `UROM[d][0..5]`, the micro-program table by its 4-bit codes (R19). -/
def tableUROM : Direction → Vector UCode 6
  | .forward => #v[0x1, 0x2, 0x3, 0x4, 0x5, 0x6]
  | .inverse => #v[0xe, 0xd, 0xc, 0xb, 0xa, 0x9]

end Sys2Proof.Machine
end

