-- ==== Sys2Proof/Config.lean ====
section
/-! DEFINITION. What the specification leaves open for good: the free values of the model. The
parameters that R3 fixes are in the types of `Word.lean`; the three durations that R157 leaves open
have no counterpart, because no rule reads them (log entry 10). -/

namespace Sys2Proof.Config

/-- Free value: byte `lane` of the `draw`-th unspecified buffer (R21, R150, R151, and the arbitrary
payload bytes of R41). It has no body, so nothing can be proved of its value (log entry 3). -/
opaque freeByte (draw lane : Nat) : Byte

end Sys2Proof.Config
end

