-- ==== Sys2Proof/Machine/State.lean ====
section
/-! DEFINITION. The state of the machine as plain data. `buf`, `st`, `dir` and `seq` are the whole
state of the engine (R20). The four other fields are the model's own: the Host at the other side of
the interface (its reset line, its coming operations, what it has received) and the counter of free
values. -/

namespace Sys2Proof.Machine

/-- The status field `ST` (R14). Its 2-bit code is `Status.code` in `Flags.lean`. -/
inductive Status where
  /-- No transaction since reset. -/
  | idle
  /-- A well-formed transaction is executing and the buffer belongs to the Engine. -/
  | run
  /-- Six stages have executed and the buffer holds the result. -/
  | done
  /-- The last SUBMIT raised ShapeError. -/
  | err
deriving DecidableEq, Repr

/-- What the Host does in one step (R121, R123). RESET is not here: it is the reset line, because it
can coincide with any of these (R134). -/
inductive HostOp where
  /-- The Host does nothing, so the Engine may move. -/
  | idle
  /-- SUBMIT is offered (R110). -/
  | submit (c : Command)
  /-- RESULT is performed (R115, R116). -/
  | result
  /-- "wait for `ST = DONE`; RESULT", the rest of the host sequence of a command (R117, R118). -/
  | awaitResult
  /-- The command FORWARD or INVERT is issued (R117, R118). -/
  | command (c : Command)
  /-- A software caller hands a buffer of any length to the adapter that builds the command (R41). -/
  | call (dir : Direction) (bytes : List Byte)
deriving DecidableEq, Repr

/-- What RESULT, or the adapter of R41, hands to the Host (R42). -/
inductive Reply where
  /-- The 19 bytes `BUF[0]` to `BUF[18]` (R115). -/
  | data (bytes : Buffer)
  /-- The indication ShapeError, with no data (R116, R130). -/
  | shapeError
deriving DecidableEq, Repr

/-- No step of this machine stops with a fault: the only exception is ShapeError, whose whole effect
R131 gives and which is therefore a next state, and no other exception exists (R132). -/
inductive Fault where
deriving DecidableEq, Repr

/-- Why a step gives no meaning. -/
inductive Refusal where
  /-- Raised by an arm of `exec` whose instruction has no meaning yet. Safe: the machine stops. No
  arm of this model raises it. -/
  | notModelled (mnemonic : String)
  /-- Raised by the engine step on a reserved micro-operation code, for which R55 says that a model's
  executor must refuse. Safe: the machine stops, and no state fetches such a code. -/
  | reservedCode (code : UCode)
  /-- Raised by the step on any state with `SEQ = 7` (R12 and S5 of the implementation-defined file,
  log entry 21), and by the engine step when `ST = RUN` and `SEQ` is 6, outside the 6-entry row of the
  micro-program (R12, R37, log entry 8). Safe: the machine stops, and no run from reset reaches such a
  state. -/
  | sequencerOutOfRange (seq : BitVec 3)
deriving DecidableEq, Repr

/-- The machine. -/
structure State where
  /-- `BUF[0..18]` (R10). -/
  buf : Buffer
  /-- `ST` (R14). -/
  st : Status
  /-- `DIR` (R13). -/
  dir : Direction
  /-- `SEQ`, a 3-bit counter (R12). -/
  seq : BitVec 3
  /-- The model's own: whether RESET is requested in each of the coming steps, the next one first;
  not requested once the list is empty (R134, R150). -/
  resetLine : List Bool
  /-- The model's own: what the Host does in the coming steps, the next one first; nothing once the
  list is empty (R123). -/
  host : List HostOp
  /-- The model's own: what the Host has received, newest first (R42). -/
  replies : List Reply
  /-- The model's own: how many unspecified buffers have been drawn from `Config.freeByte`. -/
  draws : Nat
deriving DecidableEq, Repr

/-- The machine right after reset (R21). R21 gives `ST`, `DIR` and `SEQ`; the buffer is unspecified
there and zero here (log entry 2). The Host has done nothing and asks for nothing. -/
def State.reset : State :=
  { buf := Vector.replicate 19 0
    st := .idle
    dir := .forward
    seq := 0
    resetLine := []
    host := []
    replies := []
    draws := 0 }

end Sys2Proof.Machine
end

