-- ==== Sys2Proof/Machine/Flags.lean ====
section
/-! DEFINITION. The flag-like state. The engine has no condition codes and no stage writes a flag;
`ST` is its only status (R14). Here are its code, the conditions other rules read from it, and the
values of the output ports in the informative binding of the storage file, section 6. -/

namespace Sys2Proof.Machine

/-- The 2-bit code of `ST` (R14). -/
def Status.code : Status → BitVec 2
  | .idle => 0
  | .run => 1
  | .done => 2
  | .err => 3

/-- A SUBMIT is accepted exactly when `ST` is not `RUN` (R110); the port `cmd_ready`. -/
def cmdReady (s : State) : Bool := s.st != .run

/-- The engine step is enabled exactly when `ST = RUN` (R113). -/
def engineEnabled (s : State) : Bool := s.st == .run

/-- The port `rsp_valid`: a result or an error indication is available (R115, R116). -/
def rspValid (s : State) : Bool := s.st == .done || s.st == .err

/-- The port `rsp_err`, which is also the exception cause code of R130: 1 exactly in `ERR`. -/
def rspErr (s : State) : BitVec 1 := if s.st = .err then 1 else 0

/-- Nineteen bytes in one 152-bit word, position `i` at bits `8i+7` to `8i` (R33). -/
def packBuffer (b : Buffer) : BitVec 152 :=
  b.toList.foldr (fun byte acc => (acc <<< 8) ||| byte.setWidth 152) 0

/-- The nineteen bytes of a 152-bit word (R33). -/
def unpackBuffer (w : BitVec 152) : Buffer :=
  Vector.ofFn fun i : Fin 19 => w.extractLsb' (8 * i.val) 8

/-- The port `rsp_data`: the buffer in `DONE`, and no data in any other state (R42). -/
def rspData (s : State) : Option (BitVec 152) :=
  if s.st = .done then some (packBuffer s.buf) else none

end Sys2Proof.Machine
end

