-- ==== Sys2Proof/Machine/Ops.lean ====
section
/-! DEFINITION. The named operations: what a stage can do to the buffer, SUBMIT with its two
outcomes, taking the one exception and leaving it, RESULT, RESET, and the sequencer's advance. -/

namespace Sys2Proof.Machine

/-! ## The buffer -/

/-- Every lane from its own old value (R70): the shape of the lane-local stages. -/
def mapLanes (f : Fin 19 → Byte → Byte) (b : Buffer) : Buffer :=
  Vector.ofFn fun i => f i b[i]

/-- The block from the whole old buffer, the tail kept (R70, R72, R73). -/
def mapBlock (f : Fin 16 → Byte) (b : Buffer) : Buffer :=
  Vector.ofFn fun i : Fin 19 => if h : i.val < 16 then f ⟨i.val, h⟩ else b[i]

/-- A stage operation applied to `BUF`, all lanes at once; nothing else changes (R35, R70). -/
def applyStage (f : Buffer → Buffer) (s : State) : State := { s with buf := f s.buf }

/-- An unspecified buffer: the `draw`-th free value (R21, R151). -/
@[irreducible] def freeBuffer (draw : Nat) : Buffer := Vector.ofFn fun i : Fin 19 => Config.freeByte draw i.val

/-! ## SUBMIT and the exception -/

/-- The load of a well-formed SUBMIT (R112). -/
def loadTransaction (dir : Direction) (d : Buffer) (s : State) : State :=
  { s with buf := d, dir := dir, seq := 0, st := .run }

/-- `raise ShapeError`: `ST` becomes `ERR` and nothing else changes (R131). There is no handler, no
saved register and no return instruction; the next accepted SUBMIT, or a reset, leaves `ERR`
(R133). -/
def raiseShapeError (s : State) : State := { s with st := .err }

/-- SUBMIT offered: acceptance first (R110, R134), then the shape check (R111), then the load
(R112). -/
def submit (c : Command) (s : State) : State :=
  if cmdReady s then
    if c.n = 19 then loadTransaction (Direction.ofCode c.dir) c.d s else raiseShapeError s
  else s

/-- The adapter between a software buffer and the command (R41): a length of 256 or more has no
command, and positions the buffer does not reach are arbitrary (`pad`). -/
def adapt (dir : Direction) (bytes : List Byte) (pad : Buffer) : Option Command :=
  if bytes.length < 256 then
    some
      { dir := dir.code
        n := BitVec.ofNat 8 bytes.length
        d := Vector.ofFn fun i : Fin 19 => (bytes[i.val]?).getD pad[i] }
  else none

/-! ## RESULT -/

/-- What RESULT returns: the buffer in `DONE`, ShapeError in `ERR`, nothing in `IDLE` and `RUN`
(R42, R115, R116). -/
def readResult (s : State) : Option Reply :=
  match s.st with
  | .done => some (.data s.buf)
  | .err => some .shapeError
  | .idle => none
  | .run => none

/-- The Host receives a reply. -/
def deliver (r : Reply) (s : State) : State := { s with replies := r :: s.replies }

/-- RESULT: the engine's state is unchanged, and the Host receives what is available (R36, R115,
R116). -/
def takeResult (s : State) : State :=
  match readResult s with
  | some r => deliver r s
  | none => s

/-! ## RESET -/

/-- RESET: the control fields take their reset values and the buffer is unspecified, so it is a free
value here (R21, R150, R151). -/
def resetEvent (s : State) : State :=
  { s with
    st := .idle
    dir := .forward
    seq := 0
    buf := freeBuffer s.draws
    draws := s.draws + 1 }

/-! ## The sequencer -/

/-- The code the Engine fetches, `UROM[DIR][SEQ]`; none when `SEQ` is outside the row (R113). -/
def fetchCode (s : State) : Option UCode := (tableUROM s.dir)[s.seq.toNat]?

/-- `SEQ` has one of its legal values, 0 to 6 (R12). A state with the value 7 is refused (S5 of the
implementation-defined file). -/
def seqLegal (s : State) : Bool := s.seq != 7

/-- `SEQ <- SEQ + 1`, and `ST <- DONE` when the new value is 6 (R113, R114). -/
def advance (s : State) : State :=
  { s with seq := s.seq + 1, st := if s.seq + 1 = 6 then .done else s.st }

/-! ## The Host's side of the interface -/

/-- Whether RESET is requested in the coming step. -/
def resetRequested (s : State) : Bool := s.resetLine.headD false

/-- The reset line moves on by one step. -/
def popResetLine (s : State) : State := { s with resetLine := s.resetLine.tail }

/-- The Host moves on by one operation. -/
def popHost (s : State) : State := { s with host := s.host.tail }

/-- The Host does `op` next, before what it was going to do. -/
def pushHost (op : HostOp) (s : State) : State := { s with host := op :: s.host }

/-- A command: its SUBMIT, and when that is accepted the rest of the host sequence, "wait for
`ST = DONE`; RESULT" (R117, R118). A SUBMIT that is not accepted leaves nothing behind (R110). -/
def issueCommand (c : Command) (s : State) : State :=
  if cmdReady s then pushHost .awaitResult (submit c s) else s

end Sys2Proof.Machine
end

