-- ==== Sys2Proof/Machine/Commands.lean ====
section
/-! DEFINITION. The commands FORWARD and INVERT (R117, R118): the SUBMIT with `dir` 0 or 1, after
which the Host waits for the Engine and takes the result. The six stages between are the Engine's
own steps (R113). -/

namespace Sys2Proof.Machine

/-- FORWARD (R117). -/
def execForward (n : Len) (d : Buffer) (s : State) : Host.Outcome State Fault Refusal :=
  .next (issueCommand { dir := 0, n := n, d := d } s)

/-- INVERT (R118). -/
def execInvert (n : Len) (d : Buffer) (s : State) : Host.Outcome State Fault Refusal :=
  .next (issueCommand { dir := 1, n := n, d := d } s)

end Sys2Proof.Machine
end

