-- ==== Sys2Proof/Machine/Forward.lean ====
section
/-! DEFINITION. The six forward micro-operations (R71 to R76) and the function FORWARD that they
compose (R77). Each stage is a function of the whole old buffer (R70); its meaning applies it to
`BUF` and changes nothing else. -/

namespace Sys2Proof.Machine

/-- Stage 1: the block moves down by three, and the three XOR-ed bytes land reversed (R71). -/
def xorSwap (b : Buffer) : Buffer :=
  Vector.ofFn fun i : Fin 19 =>
    if h : i.val < 16 then b[i.val + 3]
    else xor8 b[18 - i.val] (tableX[18 - i.val]'(by omega))

/-- Stage 2: lane `j` of the block is XOR-ed with `K[j]` (R72). -/
def blockXor (b : Buffer) : Buffer := mapBlock (fun j => xor8 b[j.val] tableK[j]) b

/-- Stage 3: the bytes of the block change places, their bits do not move (R73). -/
def blockReverse (b : Buffer) : Buffer := mapBlock (fun j => b[15 - j.val]) b

/-- Stage 4: lane `i` is rotated by `SH[i]` in the direction `RD[i]` (R74). -/
def indexedRotate (b : Buffer) : Buffer :=
  mapLanes (fun i x => (tableRD i.val).apply x tableSH[i]) b

/-- Stage 5: `A[i]` is added to lane `i` (R75). -/
def constantAdd (b : Buffer) : Buffer := mapLanes (fun i x => add8 x tableA[i]) b

/-- Stage 6: the nibbles of the block lanes are swapped, the tail lanes are rotated left by 4
(R76). -/
def nibbleSwap (b : Buffer) : Buffer :=
  mapLanes (fun i x => if i.val < 16 then swap4 x else rol8 x 4) b

/-- The function FORWARD: stage 1 first, stage 6 last (R77). -/
def forwardSequence (b : Buffer) : Buffer :=
  nibbleSwap (constantAdd (indexedRotate (blockReverse (blockXor (xorSwap b)))))

/-- XSW.F (R71). -/
def execXswF (s : State) : Host.Outcome State Fault Refusal := .next (applyStage xorSwap s)

/-- BXR.F (R72). -/
def execBxrF (s : State) : Host.Outcome State Fault Refusal := .next (applyStage blockXor s)

/-- BRV.F (R73). -/
def execBrvF (s : State) : Host.Outcome State Fault Refusal := .next (applyStage blockReverse s)

/-- IRT.F (R74). -/
def execIrtF (s : State) : Host.Outcome State Fault Refusal := .next (applyStage indexedRotate s)

/-- CAD.F (R75). -/
def execCadF (s : State) : Host.Outcome State Fault Refusal := .next (applyStage constantAdd s)

/-- NSW.F (R76). -/
def execNswF (s : State) : Host.Outcome State Fault Refusal := .next (applyStage nibbleSwap s)

end Sys2Proof.Machine
end

