-- ==== Sys2Proof/Machine/Inverse.lean ====
section
/-! DEFINITION. The six inverse micro-operations (R90 to R95) and the function INVERT that they
compose (R96). Each is written from its own rule; that it undoes the forward stage is a statement
(R97), not a definition. -/

namespace Sys2Proof.Machine

/-- Stage 6 undone: the nibbles of every lane are swapped (R90). -/
def undoNibbleSwap (b : Buffer) : Buffer := mapLanes (fun _ x => swap4 x) b

/-- Stage 5 undone: `A[i]` is subtracted from lane `i` (R91). -/
def undoConstantAdd (b : Buffer) : Buffer := mapLanes (fun i x => sub8 x tableA[i]) b

/-- Stage 4 undone: the same shift in the opposite direction (R92). -/
def undoIndexedRotate (b : Buffer) : Buffer :=
  mapLanes (fun i x => (tableRD i.val).opposite.apply x tableSH[i]) b

/-- Stage 3 undone (R93). -/
def undoBlockReverse (b : Buffer) : Buffer := mapBlock (fun j => b[15 - j.val]) b

/-- Stage 2 undone (R94). -/
def undoBlockXor (b : Buffer) : Buffer := mapBlock (fun j => xor8 b[j.val] tableK[j]) b

/-- Stage 1 undone: positions 18, 17 and 16 give back 0, 1 and 2, and the block moves up by three
(R95). -/
def undoXorSwap (b : Buffer) : Buffer :=
  Vector.ofFn fun p : Fin 19 =>
    if h : p.val < 3 then xor8 b[18 - p.val] tableX[p.val] else b[p.val - 3]

/-- The function INVERT: the inverse of stage 6 first, that of stage 1 last (R96). -/
def invertSequence (f : Buffer) : Buffer :=
  undoXorSwap (undoBlockXor (undoBlockReverse (undoIndexedRotate (undoConstantAdd
    (undoNibbleSwap f)))))

/-- NSW.I (R90). -/
def execNswI (s : State) : Host.Outcome State Fault Refusal := .next (applyStage undoNibbleSwap s)

/-- CAD.I (R91). -/
def execCadI (s : State) : Host.Outcome State Fault Refusal := .next (applyStage undoConstantAdd s)

/-- IRT.I (R92). -/
def execIrtI (s : State) : Host.Outcome State Fault Refusal := .next (applyStage undoIndexedRotate s)

/-- BRV.I (R93). -/
def execBrvI (s : State) : Host.Outcome State Fault Refusal := .next (applyStage undoBlockReverse s)

/-- BXR.I (R94). -/
def execBxrI (s : State) : Host.Outcome State Fault Refusal := .next (applyStage undoBlockXor s)

/-- XSW.I (R95). -/
def execXswI (s : State) : Host.Outcome State Fault Refusal := .next (applyStage undoXorSwap s)

end Sys2Proof.Machine
end

