-- ==== Sys2Proof/Machine/Dispatch.lean ====
section
/-! DEFINITION. One arm per instruction. -/

namespace Sys2Proof.Machine

def exec (i : Instr) (s : State) : Host.Outcome State Fault Refusal :=
  match i with
  -- forward stages (R71 to R76)
  | .xswF => Sys2Proof.Machine.execXswF s
  | .bxrF => Sys2Proof.Machine.execBxrF s
  | .brvF => Sys2Proof.Machine.execBrvF s
  | .irtF => Sys2Proof.Machine.execIrtF s
  | .cadF => Sys2Proof.Machine.execCadF s
  | .nswF => Sys2Proof.Machine.execNswF s
  -- inverse stages (R90 to R95)
  | .xswI => Sys2Proof.Machine.execXswI s
  | .bxrI => Sys2Proof.Machine.execBxrI s
  | .brvI => Sys2Proof.Machine.execBrvI s
  | .irtI => Sys2Proof.Machine.execIrtI s
  | .cadI => Sys2Proof.Machine.execCadI s
  | .nswI => Sys2Proof.Machine.execNswI s
  -- commands (R117, R118)
  | .forward n d => Sys2Proof.Machine.execForward n d s
  | .invert n d => Sys2Proof.Machine.execInvert n d s

end Sys2Proof.Machine
end

