-- ==== Sys2Proof/Machine/Sequencer.lean ====
section
/-! DEFINITION. The step relation in parts: the engine step (R113), what the Host's operation does,
and how a code is placed so that the next step runs it. -/

namespace Sys2Proof.Machine

/-- The stage operation a code names; a reserved code is refused (R55, R113). -/
def execCode (code : UCode) (s : State) : Host.Outcome State Fault Refusal :=
  match decodeU code with
  | .reserved c => .refused (.reservedCode c)
  | .instr i => exec i s

/-- The engine step: fetch, stage operation, advance (R113, R114). It is taken only when
`ST = RUN`. An index outside the row is refused (log entry 8). -/
def engineStep (s : State) : Host.Outcome State Fault Refusal :=
  match fetchCode s with
  | none => .refused (.sequencerOutOfRange s.seq)
  | some code =>
    match execCode code s with
    | .next t => .next (advance t)
    | .fault r => .fault r
    | .refused r => .refused r

/-- The Engine's turn: its step in `RUN`; in the three other states it has none and the machine
waits (R113, R122, log entry 7). -/
def engineTurn (s : State) : Host.Outcome State Fault Refusal :=
  if engineEnabled s then engineStep s else .next s

/-- A software caller's buffer (R41): a length that fits `n` becomes a command, a longer one is
reported as ShapeError by the adapter and the engine sees nothing. -/
def softwareCall (dir : Direction) (bytes : List Byte) (s : State) :
    Host.Outcome State Fault Refusal :=
  match adapt dir bytes (freeBuffer s.draws) with
  | none => .next (deliver .shapeError s)
  | some c => exec (decodeCommand c) { s with draws := s.draws + 1 }

/-- One operation of the Host, already taken from its list. While `ST = RUN` the Host's wait gives
the Engine its turn and goes on, and it ends in every other state (log entry 12). -/
def hostTurn (op : HostOp) (s : State) : Host.Outcome State Fault Refusal :=
  match op with
  | .idle => engineTurn s
  | .submit c => .next (submit c s)
  | .result => .next (takeResult s)
  | .awaitResult =>
    if engineEnabled s then engineTurn (pushHost .awaitResult s) else .next (takeResult s)
  | .command c => exec (decodeCommand c) s
  | .call dir bytes => softwareCall dir bytes s

/-- A step in which RESET is not requested. -/
def operate (s : State) : Host.Outcome State Fault Refusal :=
  match s.host with
  | [] => engineTurn s
  | op :: _ => hostTurn op (popHost s)

/-- A step from a state with a legal `SEQ`. When RESET is requested only RESET takes effect, and an
operation of the Host that coincides with it is lost (R134, R150, log entry 14). -/
def legalStep (s : State) : Host.Outcome State Fault Refusal :=
  if resetRequested s then .next (resetEvent (popHost (popResetLine s)))
  else operate (popResetLine s)

/-- The index of a stage in the micro-program row of its direction (R19). -/
def romIndex (stage : Stage) (dir : Direction) : BitVec 3 :=
  match dir with
  | .forward => stage.number - 1
  | .inverse => 6 - stage.number

/-- A code where the next step takes it. Format `U` is fetched from the micro-program, which cannot
be written (R40): the sequencer is set to the entry that holds the code. Format `CMD` comes from the
Host. A reserved code is in no entry (R55), and nothing is placed. -/
def placeCode (c : Code) (s : State) : State :=
  match c with
  | .u code =>
    match Stage.ofNumber code.stg with
    | none => s
    | some stage =>
      { s with
        st := .run
        dir := Direction.ofCode code.inv
        seq := romIndex stage (Direction.ofCode code.inv)
        resetLine := false :: s.resetLine
        host := .idle :: s.host }
  | .cmd c => { s with resetLine := false :: s.resetLine, host := .command c :: s.host }

end Sys2Proof.Machine
end

