-- ==== Sys2Proof/Machine/Step.lean ====
section
/-! DEFINITION. The step, and how a word of the opcode table is placed before it. -/

namespace Sys2Proof.Machine

/-- One step. A state with `SEQ = 7` is refused, whatever the Host does and whether or not RESET is
requested: the value is never reached (R12), and S5 of the implementation-defined file says to refuse
such a state (log entry 21). Every other state takes its step. -/
def step (s : State) : Host.Outcome State Fault Refusal :=
  if seqLegal s then legalStep s else .refused (.sequencerOutOfRange s.seq)

/-- `s` with a word of the opcode table placed so that the next step runs its instruction. -/
def State.withFetchWord (s : State) (nbits w : Nat) : State :=
  match tableWordCode nbits w with
  | none => s
  | some c => placeCode c s

end Sys2Proof.Machine
end

