-- ==== Sys2Proof/Machine/Listing.lean ====
section
/-! DEFINITION. The listing syntax of R57: the mnemonics and their long synonyms, the two
pseudo-instructions, and the text of micro-operation lines, buffers and host operations. It has no
behaviour. -/

namespace Sys2Proof.Machine

/-- The mnemonic of an instruction (R51, R57). -/
def mnemonic : Instr → String
  | .xswF => "XSW.F"
  | .bxrF => "BXR.F"
  | .brvF => "BRV.F"
  | .irtF => "IRT.F"
  | .cadF => "CAD.F"
  | .nswF => "NSW.F"
  | .xswI => "XSW.I"
  | .bxrI => "BXR.I"
  | .brvI => "BRV.I"
  | .irtI => "IRT.I"
  | .cadI => "CAD.I"
  | .nswI => "NSW.I"
  | .forward _ _ => "FORWARD"
  | .invert _ _ => "INVERT"

/-- The source's name of an instruction, an accepted synonym (R57). The commands have no other
name. -/
def longName : Instr → String
  | .xswF => "XorSwap"
  | .bxrF => "BlockXor"
  | .brvF => "BlockReverse"
  | .irtF => "IndexedRotate"
  | .cadF => "ConstantAdd"
  | .nswF => "NibbleSwap"
  | .xswI => "undo-XorSwap"
  | .bxrI => "undo-BlockXor"
  | .brvI => "undo-BlockReverse"
  | .irtI => "undo-IndexedRotate"
  | .cadI => "undo-ConstantAdd"
  | .nswI => "undo-NibbleSwap"
  | .forward _ _ => "FORWARD"
  | .invert _ _ => "INVERT"

/-- The twelve micro-operations (R51). -/
def microOperations : List Instr :=
  [.xswF, .bxrF, .brvF, .irtF, .cadF, .nswF, .xswI, .bxrI, .brvI, .irtI, .cadI, .nswI]

/-- The micro-operation a mnemonic or a long name stands for (R57). -/
def parseMicroOperation (name : String) : Option Instr :=
  microOperations.find? fun i => mnemonic i == name || longName i == name

/-- The six-line program a pseudo-instruction expands to (R57). -/
def expansion : Direction → List Instr
  | .forward => [.xswF, .bxrF, .brvF, .irtF, .cadF, .nswF]
  | .inverse => [.nswI, .cadI, .irtI, .brvI, .bxrI, .xswI]

/-- A hexadecimal digit, lower case. -/
def hexDigit (n : Nat) : Char := "0123456789abcdef".toList.getD n '0'

/-- A byte as two hexadecimal digits. -/
def hexByte (b : Byte) : String :=
  String.ofList [hexDigit (b.toNat / 16), hexDigit (b.toNat % 16)]

/-- A buffer as 19 bytes, position 0 first (R33, R57). -/
def listBuffer (b : Buffer) : String := String.intercalate " " (b.toList.map hexByte)

/-- The line of a micro-operation with its `UROM` index and code, `k: 0xC  MNEM` (R57). -/
def listMicroOperation (k : Nat) (code : UCode) (i : Instr) : String :=
  k.repr ++ ": 0x" ++ String.ofList [(hexDigit code.toNat).toUpper] ++ "  " ++ mnemonic i

/-- The line of a SUBMIT (R57). -/
def listSubmit (c : Command) : String :=
  "SUBMIT dir=" ++ c.dir.toNat.repr ++ " n=" ++ c.n.toNat.repr ++ " d=" ++ listBuffer c.d

/-- The lines of RESET and RESULT (R57). -/
def listReset : String := "RESET"

/-- The line of RESULT (R57). -/
def listResult : String := "RESULT"

end Sys2Proof.Machine
end

