-- ==== Sys2Proof/Safety.lean ====
section
/-! DEFINITION. What counts as a safe run: the invariant of the control state, runs of several steps,
and the relations between states that the statements are written with. -/

namespace Sys2Proof.Machine

/-- What R12 to R14, R21 and R112 to R114 say of the control state between steps: in `IDLE` the
reset values, in `RUN` an index 0..5, in `DONE` the index 6, in `ERR` what the state before the
failed SUBMIT had. -/
def State.controlOk (s : State) : Bool :=
  match s.st with
  | .idle => s.dir == .forward && s.seq == 0
  | .run => decide (s.seq.toNat ≤ 5)
  | .done => s.seq == 6
  | .err => s.seq == 6 || (s.dir == .forward && s.seq == 0)

/-- `k` steps, stopping at the first that does not give a next state. -/
def run : Nat → State → Host.Outcome State Fault Refusal
  | 0, s => .next s
  | k + 1, s =>
    match step s with
    | .next t => run k t
    | .fault r => .fault r
    | .refused r => .refused r

/-- Only `BUF` may differ from `s` to `t`: the frame of a stage operation. -/
def OnlyBufChanges (s t : State) : Prop := t = { s with buf := t.buf }

/-- The tail `BUF[16..18]` is the same in `s` and `t`. -/
def TailKept (s t : State) : Prop :=
  t.buf[16] = s.buf[16] ∧ t.buf[17] = s.buf[17] ∧ t.buf[18] = s.buf[18]

/-- The explicit index-remapping table of R71: old position `p` goes to `sigma p`. -/
def sigma (p : Fin 19) : Fin 19 :=
  if h : p.val < 3 then ⟨18 - p.val, by omega⟩ else ⟨p.val - 3, by omega⟩

/-- The XOR mask of R71, by old position. -/
def sigmaMask (p : Fin 19) : Byte :=
  if p.val = 0 then 0x42 else if p.val = 1 then 0x59 else if p.val = 2 then 0x70 else 0x00

/-- The command whose SUBMIT the Host offers in the coming step, if it offers one. -/
def offered (s : State) : Option Command :=
  match s.host.head? with
  | some (.submit c) => some c
  | some (.command c) => some c
  | some (.call dir bytes) => adapt dir bytes (freeBuffer s.draws)
  | some .idle => none
  | some .result => none
  | some .awaitResult => none
  | none => none

/-- The coming step accepts the SUBMIT `c`: it is offered, `ST` is not `RUN` and no RESET coincides
(R110, R134), and the state is not refused for its `SEQ` (R12). -/
def Accepts (s : State) (c : Command) : Prop :=
  resetRequested s = false ∧ s.st ≠ .run ∧ offered s = some c ∧ s.seq ≠ 7

/-- The Host leaves the Engine the coming step: no RESET, and nothing to do or a wait. -/
def LeavesTurn (s : State) : Prop :=
  resetRequested s = false ∧
    (s.host.head? = none ∨ s.host.head? = some .idle ∨ s.host.head? = some .awaitResult)

/-- The state in which the Engine takes a turn that the Host leaves it: the reset line has moved on,
and so has the Host unless it waits for a result. -/
def turnState (s : State) : State :=
  match s.host with
  | .awaitResult :: _ => popResetLine s
  | _ => popHost (popResetLine s)

/-- The reply a command ends with (R111, R114 to R118). -/
def replyOf (c : Command) : Reply :=
  if c.n = 19 then
    .data (match Direction.ofCode c.dir with
      | .forward => forwardSequence c.d
      | .inverse => invertSequence c.d)
  else .shapeError

/-- The engine's own state is the same in `s` and `t` (R20). -/
def EngineKept (s t : State) : Prop :=
  t.buf = s.buf ∧ t.st = s.st ∧ t.dir = s.dir ∧ t.seq = s.seq

/-- The Host asks for nothing in the coming steps: no RESET and no operation. -/
def HostQuiet (s : State) : Prop := s.resetLine = [] ∧ s.host = []

/-- No RESET is requested in any coming step. -/
def NoReset (s : State) : Prop := ∀ r ∈ s.resetLine, r = false

/-- The function a micro-program row computes: FORWARD or INVERT (R77, R96). -/
def sequenceOf : Direction → Buffer → Buffer
  | .forward => forwardSequence
  | .inverse => invertSequence

end Sys2Proof.Machine
end

