-- ==== Sys2Proof/Certificates/Slice0/Obligations.lean ====
section
/-! DEFINITION. The statements for the provers. Each formalises a numbered rule of the
specification, or follows from the rules and log entries that its docstring names. The premise
`s.seq ≠ 7` leaves out only the states that R12 says are never reached and S5 says to refuse:
`SequencerOutOfRangeIsRefused` says what the step does there, and that no step leads there. -/

open Sys2Proof Sys2Proof.Machine

/-! ## Micro-operations: what each gives, and what it leaves unchanged -/

/-- R71, whole: the code, the lanes, the index-remapping form, the frame, that the stage is not its own
inverse, and the worked example. -/
def Obligations.XorSwapForwardMovesAndMasks : Prop :=
  decode (.u 0b0001) = .instr .xswF ∧
  Function.Bijective sigma ∧
  ∀ s : State, ∃ t, exec .xswF s = .next t ∧ OnlyBufChanges s t ∧
    (∀ (j : Nat) (_ : j < 16), t.buf[j] = s.buf[j + 3]) ∧
    t.buf[16] = xor8 s.buf[2] 0x70 ∧ t.buf[17] = xor8 s.buf[1] 0x59 ∧
    t.buf[18] = xor8 s.buf[0] 0x42 ∧
    (∀ p : Fin 19, t.buf[sigma p] = xor8 s.buf[p] (sigmaMask p)) ∧
    (∀ u, exec .xswF t = .next u → u.buf[0] = s.buf[6]) ∧
    (s.buf = #v[0x00, 0x01, 0x02, 0x03, 0x04, 0x05, 0x06, 0x07, 0x08, 0x09,
        0x0a, 0x0b, 0x0c, 0x0d, 0x0e, 0x0f, 0x10, 0x11, 0x12] →
      t.buf = #v[0x03, 0x04, 0x05, 0x06, 0x07, 0x08, 0x09, 0x0a, 0x0b, 0x0c,
        0x0d, 0x0e, 0x0f, 0x10, 0x11, 0x12, 0x72, 0x58, 0x42])

/-- R72, whole: the code, the lanes, the tail and the rest unchanged, that the stage twice is the
identity, the zero block, and the worked example. -/
def Obligations.BlockXorForwardKeysTheBlock : Prop :=
  decode (.u 0b0010) = .instr .bxrF ∧
  ∀ s : State, ∃ t, exec .bxrF s = .next t ∧ OnlyBufChanges s t ∧
    TailKept s t ∧
    (∀ (j : Nat) (_ : j < 16), t.buf[j] = xor8 s.buf[j] tableK[j]) ∧
    exec .bxrF t = .next s ∧
    ((∀ (j : Nat) (_ : j < 16), s.buf[j] = 0) → ∀ (j : Nat) (_ : j < 16), t.buf[j] = tableK[j]) ∧
    (s.buf = #v[0x03, 0x04, 0x05, 0x06, 0x07, 0x08, 0x09, 0x0a, 0x0b, 0x0c,
        0x0d, 0x0e, 0x0f, 0x10, 0x11, 0x12, 0x72, 0x58, 0x42] →
      t.buf = #v[0x84, 0x9a, 0xb0, 0xca, 0xe4, 0xf2, 0x18, 0x22, 0x34, 0x5a,
        0x60, 0x8a, 0x94, 0xa2, 0xd8, 0xf2, 0x72, 0x58, 0x42])

/-- R73, whole: the code, the lanes (bytes change places, their bits do not), the tail and the rest
unchanged, that no position is fixed, that the stage twice is the identity, and the worked example. -/
def Obligations.BlockReverseForwardReversesBytes : Prop :=
  decode (.u 0b0011) = .instr .brvF ∧
  ∀ s : State, ∃ t, exec .brvF s = .next t ∧ OnlyBufChanges s t ∧
    TailKept s t ∧
    (∀ (j : Nat) (_ : j < 16), t.buf[j] = s.buf[15 - j]) ∧
    t.buf[7] = s.buf[8] ∧ t.buf[8] = s.buf[7] ∧ (∀ j < 16, j ≠ 15 - j) ∧
    exec .brvF t = .next s ∧
    (s.buf = #v[0x84, 0x9a, 0xb0, 0xca, 0xe4, 0xf2, 0x18, 0x22, 0x34, 0x5a,
        0x60, 0x8a, 0x94, 0xa2, 0xd8, 0xf2, 0x72, 0x58, 0x42] →
      t.buf = #v[0xf2, 0xd8, 0xa2, 0x94, 0x8a, 0x60, 0x5a, 0x34, 0x22, 0x18,
        0xf2, 0xe4, 0xca, 0xb0, 0x9a, 0x84, 0x72, 0x58, 0x42])

/-- R74, whole: the code, the direction and amount of every lane, the frame, the fixed points, and the
worked example. -/
def Obligations.IndexedRotateForwardRotatesLanes : Prop :=
  decode (.u 0b0100) = .instr .irtF ∧
  ∀ s : State, ∃ t, exec .irtF s = .next t ∧ OnlyBufChanges s t ∧
    (∀ (i : Nat) (_ : i < 19),
      t.buf[i] = if i % 2 = 0 then rol8 s.buf[i] tableSH[i] else ror8 s.buf[i] tableSH[i]) ∧
    (∀ (i : Nat) (_ : i < 19), 1 ≤ tableSH[i].toNat ∧ tableSH[i].toNat ≤ 7) ∧
    (∀ (i : Nat) (_ : i < 19), s.buf[i] = 0x00 ∨ s.buf[i] = 0xff → t.buf[i] = s.buf[i]) ∧
    (s.buf = #v[0x01, 0x01, 0x01, 0x01, 0x01, 0x01, 0x01, 0x01, 0x01, 0x01,
        0x01, 0x01, 0x01, 0x01, 0x01, 0x01, 0x01, 0x01, 0x01] →
      t.buf = #v[0x02, 0x40, 0x08, 0x10, 0x20, 0x80, 0x80, 0x20, 0x04, 0x08,
        0x10, 0x40, 0x40, 0x10, 0x02, 0x80, 0x08, 0x20, 0x20])

/-- R75, whole: the code, every lane an unsigned sum modulo 256 of its own, the tail constants, the zero
buffer, the frame, and the worked example. -/
def Obligations.ConstantAddForwardAddsModulo256 : Prop :=
  decode (.u 0b0101) = .instr .cadF ∧
  ∀ s : State, ∃ t, exec .cadF s = .next t ∧ OnlyBufChanges s t ∧
    (∀ (i : Nat) (_ : i < 19), t.buf[i].toNat = (s.buf[i].toNat + tableA[i].toNat) % 256) ∧
    tableA[16] = 0x43 ∧ tableA[17] = 0xbc ∧ tableA[18] = 0x45 ∧
    (s.buf = Vector.replicate 19 0 → t.buf = tableA) ∧
    (s.buf = #v[0xff, 0xff, 0xff, 0xff, 0xff, 0xff, 0xff, 0xff, 0xff, 0xff,
        0xff, 0xff, 0xff, 0xff, 0xff, 0xff, 0xff, 0xff, 0xff] →
      t.buf = #v[0x32, 0xcb, 0x34, 0xc9, 0x36, 0xc7, 0x38, 0xc5, 0x3a, 0xc3,
        0x3c, 0xc1, 0x3e, 0xbf, 0x40, 0xbd, 0x42, 0xbb, 0x44])

/-- R76, whole: the code, the nibble formula on the block and the rotation by 4 on the tail, that both are
one function, the fixed points, the frame, that the stage twice is the identity, and the worked
example. -/
def Obligations.NibbleSwapForwardSwapsNibbles : Prop :=
  decode (.u 0b0110) = .instr .nswF ∧
  ∀ s : State, ∃ t, exec .nswF s = .next t ∧ OnlyBufChanges s t ∧
    (∀ (i : Nat) (_ : i < 16), t.buf[i] = ((s.buf[i] <<< 4) &&& 0xf0) ||| ((s.buf[i] >>> 4) &&& 0x0f)) ∧
    (∀ (i : Nat) (_ : i < 19), 16 ≤ i → t.buf[i] = rol8 s.buf[i] 4) ∧
    (∀ (i : Nat) (_ : i < 19), t.buf[i] = swap4 s.buf[i]) ∧
    (∀ (i : Nat) (_ : i < 19), s.buf[i].toNat / 16 = s.buf[i].toNat % 16 → t.buf[i] = s.buf[i]) ∧
    exec .nswF t = .next s ∧
    (s.buf = #v[0x00, 0x01, 0x02, 0x03, 0x04, 0x05, 0x06, 0x07, 0x08, 0x09,
        0x0a, 0x0b, 0x0c, 0x0d, 0x0e, 0x0f, 0x10, 0x11, 0x12] →
      t.buf = #v[0x00, 0x10, 0x20, 0x30, 0x40, 0x50, 0x60, 0x70, 0x80, 0x90,
        0xa0, 0xb0, 0xc0, 0xd0, 0xe0, 0xf0, 0x01, 0x11, 0x21])

/-- R90, whole: the code, the lanes, the same function as NSW.F, the frame, and the worked example. -/
def Obligations.NibbleSwapInverseSwapsNibbles : Prop :=
  decode (.u 0b1110) = .instr .nswI ∧
  ∀ s : State, ∃ t, exec .nswI s = .next t ∧ OnlyBufChanges s t ∧
    (∀ (i : Nat) (_ : i < 19), t.buf[i] = swap4 s.buf[i] ∧ t.buf[i] = rol8 s.buf[i] 4 ∧
      t.buf[i] = ror8 s.buf[i] 4) ∧
    exec .nswF s = .next t ∧
    (s.buf = #v[0x0e, 0xac, 0x94, 0x46, 0xc6, 0x6f, 0xbe, 0x72, 0xb7, 0x5d,
        0x79, 0xee, 0xe2, 0xd0, 0xed, 0xa2, 0xc6, 0x28, 0x8a] →
      t.buf = #v[0xe0, 0xca, 0x49, 0x64, 0x6c, 0xf6, 0xeb, 0x27, 0x7b, 0xd5,
        0x97, 0xee, 0x2e, 0x0d, 0xde, 0x2a, 0x6c, 0x82, 0xa8])

/-- R91, whole: the code, every lane an unsigned difference modulo 256 of its own, the adder form, the
tail constants, the frame, and the worked example. -/
def Obligations.ConstantAddInverseSubtractsModulo256 : Prop :=
  decode (.u 0b1101) = .instr .cadI ∧
  ∀ s : State, ∃ t, exec .cadI s = .next t ∧ OnlyBufChanges s t ∧
    (∀ (i : Nat) (_ : i < 19), t.buf[i].toNat = (s.buf[i].toNat + 256 - tableA[i].toNat) % 256) ∧
    (∀ (i : Nat) (_ : i < 19),
      t.buf[i] = add8 s.buf[i] (BitVec.ofNat 8 ((256 - tableA[i].toNat) % 256))) ∧
    tableA[16] = 0x43 ∧ tableA[17] = 0xbc ∧ tableA[18] = 0x45 ∧
    (s.buf = #v[0xe0, 0xca, 0x49, 0x64, 0x6c, 0xf6, 0xeb, 0x27, 0x7b, 0xd5,
        0x97, 0xee, 0x2e, 0x0d, 0xde, 0x2a, 0x6c, 0x82, 0xa8] →
      t.buf = #v[0xad, 0xfe, 0x14, 0x9a, 0x35, 0x2e, 0xb2, 0x61, 0x40, 0x11,
        0x5a, 0x2c, 0xef, 0x4d, 0x9d, 0x6c, 0x29, 0xc6, 0x63])

/-- R92, whole: the code, the same amount in the opposite direction on every lane, the frame, the fixed
points, and the worked example. -/
def Obligations.IndexedRotateInverseRotatesBack : Prop :=
  decode (.u 0b1100) = .instr .irtI ∧
  ∀ s : State, ∃ t, exec .irtI s = .next t ∧ OnlyBufChanges s t ∧
    (∀ (i : Nat) (_ : i < 19),
      t.buf[i] = if i % 2 = 0 then ror8 s.buf[i] tableSH[i] else rol8 s.buf[i] tableSH[i]) ∧
    (∀ (i : Nat) (_ : i < 19), s.buf[i] = 0x00 ∨ s.buf[i] = 0xff → t.buf[i] = s.buf[i]) ∧
    (s.buf = #v[0xad, 0xfe, 0x14, 0x9a, 0x35, 0x2e, 0xb2, 0x61, 0x40, 0x11,
        0x5a, 0x2c, 0xef, 0x4d, 0x9d, 0x6c, 0x29, 0xc6, 0x63] →
      t.buf = #v[0xd6, 0xfb, 0x82, 0xa9, 0xa9, 0x5c, 0x65, 0x0b, 0x10, 0x22,
        0xa5, 0xb0, 0xbf, 0xd4, 0xce, 0xd8, 0x25, 0x36, 0x1b])

/-- R93, whole: the code, the lanes, the same function as BRV.F, the tail and the rest unchanged, and the
worked example. -/
def Obligations.BlockReverseInverseReversesBytes : Prop :=
  decode (.u 0b1011) = .instr .brvI ∧
  ∀ s : State, ∃ t, exec .brvI s = .next t ∧ OnlyBufChanges s t ∧
    TailKept s t ∧
    (∀ (j : Nat) (_ : j < 16), t.buf[j] = s.buf[15 - j]) ∧
    exec .brvF s = .next t ∧
    (s.buf = #v[0xd6, 0xfb, 0x82, 0xa9, 0xa9, 0x5c, 0x65, 0x0b, 0x10, 0x22,
        0xa5, 0xb0, 0xbf, 0xd4, 0xce, 0xd8, 0x25, 0x36, 0x1b] →
      t.buf = #v[0xd8, 0xce, 0xd4, 0xbf, 0xb0, 0xa5, 0x22, 0x10, 0x0b, 0x65,
        0x5c, 0xa9, 0xa9, 0x82, 0xfb, 0xd6, 0x25, 0x36, 0x1b])

/-- R94, whole: the code, the lanes, the same function as BXR.F, the tail and the rest unchanged, and the
worked example. -/
def Obligations.BlockXorInverseKeysTheBlock : Prop :=
  decode (.u 0b1010) = .instr .bxrI ∧
  ∀ s : State, ∃ t, exec .bxrI s = .next t ∧ OnlyBufChanges s t ∧
    TailKept s t ∧
    (∀ (j : Nat) (_ : j < 16), t.buf[j] = xor8 s.buf[j] tableK[j]) ∧
    exec .bxrF s = .next t ∧
    (s.buf = #v[0xd8, 0xce, 0xd4, 0xbf, 0xb0, 0xa5, 0x22, 0x10, 0x0b, 0x65,
        0x5c, 0xa9, 0xa9, 0x82, 0xfb, 0xd6, 0x25, 0x36, 0x1b] →
      t.buf = #v[0x5f, 0x50, 0x61, 0x73, 0x53, 0x5f, 0x33, 0x38, 0x34, 0x33,
        0x31, 0x2d, 0x32, 0x30, 0x32, 0x36, 0x25, 0x36, 0x1b])

/-- R95, whole: the code, the lanes, the index-remapping form, the frame, that the stage is neither XSW.F
nor involutive, and the worked example. -/
def Obligations.XorSwapInverseMovesBack : Prop :=
  decode (.u 0b1001) = .instr .xswI ∧
  (∃ s, exec .xswI s ≠ exec .xswF s) ∧
  ∀ s : State, ∃ t, exec .xswI s = .next t ∧ OnlyBufChanges s t ∧
    t.buf[0] = xor8 s.buf[18] 0x42 ∧ t.buf[1] = xor8 s.buf[17] 0x59 ∧
    t.buf[2] = xor8 s.buf[16] 0x70 ∧
    (∀ (j : Nat) (_ : j < 16), t.buf[j + 3] = s.buf[j]) ∧
    (∀ p : Fin 19, t.buf[p] = xor8 s.buf[sigma p] (sigmaMask p)) ∧
    (∀ u, exec .xswI t = .next u → u.buf[6] = s.buf[0]) ∧
    (s.buf = #v[0x5f, 0x50, 0x61, 0x73, 0x53, 0x5f, 0x33, 0x38, 0x34, 0x33,
        0x31, 0x2d, 0x32, 0x30, 0x32, 0x36, 0x25, 0x36, 0x1b] →
      t.buf = #v[0x59, 0x6f, 0x55, 0x5f, 0x50, 0x61, 0x73, 0x53, 0x5f, 0x33,
        0x38, 0x34, 0x33, 0x31, 0x2d, 0x32, 0x30, 0x32, 0x36])

/-! ## Primitives and tables -/

/-- R4, R5 and R7, whole: `xor8`, `add8`, `sub8` and `swap4` on every byte, with the laws those rules
state of them. -/
def Obligations.BytePrimitivesCompute : Prop :=
  (∀ a k : Byte, xor8 a k = a ^^^ k ∧ xor8 (xor8 a k) k = a) ∧
  (∀ a c : Byte, (add8 a c).toNat = (a.toNat + c.toNat) % 256 ∧
    ((sub8 a c).toNat : Int) = ((a.toNat : Int) - c.toNat) % 256 ∧
    sub8 (add8 a c) c = a ∧ add8 (sub8 a c) c = a) ∧
  (∀ b : Byte, swap4 b = ((b <<< 4) &&& 0xf0) ||| ((b >>> 4) &&& 0x0f) ∧
    (swap4 b).toNat / 16 = b.toNat % 16 ∧ (swap4 b).toNat % 16 = b.toNat / 16 ∧
    swap4 (swap4 b) = b ∧ swap4 b = rol8 b 4 ∧ swap4 b = ror8 b 4)

/-- R6, whole: which bit goes where, the shift formulas, rotation by 0, each rotation the inverse of
the other, and rotation right as rotation left by `(8 - s) mod 8`. -/
def Obligations.RotatesMoveEveryBit : Prop :=
  (∀ (b : Byte) (s : BitVec 3) (j : Nat), j < 8 →
    (rol8 b s).getLsbD ((j + s.toNat) % 8) = b.getLsbD j ∧
    (ror8 b s).getLsbD j = b.getLsbD ((j + s.toNat) % 8)) ∧
  (∀ (b : Byte) (s : BitVec 3), s ≠ 0 →
    (rol8 b s).toNat = (b.toNat <<< s.toNat ||| b.toNat >>> (8 - s.toNat)) % 256 ∧
    (ror8 b s).toNat = (b.toNat >>> s.toNat ||| b.toNat <<< (8 - s.toNat)) % 256) ∧
  (∀ b : Byte, rol8 b 0 = b ∧ ror8 b 0 = b) ∧
  (∀ (b : Byte) (s : BitVec 3), rol8 (ror8 b s) s = b ∧ ror8 (rol8 b s) s = b ∧
    ror8 b s = rol8 b (BitVec.ofNat 3 ((8 - s.toNat) % 8)))

/-- R15, R16 and R17, whole: every literal of the constant tables, and the unified table. -/
def Obligations.ConstantTablesHoldTheLiterals : Prop :=
  tableX = #v[0x42, 0x59, 0x70] ∧
  tableK = #v[0x87, 0x9e, 0xb5, 0xcc, 0xe3, 0xfa, 0x11, 0x28,
    0x3f, 0x56, 0x6d, 0x84, 0x9b, 0xb2, 0xc9, 0xe0] ∧
  tableC = #v[0x33, 0xcc, 0x35, 0xca, 0x37, 0xc8, 0x39, 0xc6,
    0x3b, 0xc4, 0x3d, 0xc2, 0x3f, 0xc0, 0x41, 0xbe] ∧
  tableT = #v[0x43, 0xbc, 0x45] ∧
  (∀ (j : Nat) (_ : j < 16), tableA[j] = tableC[j]) ∧
  (∀ (j : Nat) (_ : j < 3), tableA[16 + j] = tableT[j])

/-- R8 and R18, whole: the shift formula, the printed table, the residue form, the range, and the
rotation directions. -/
def Obligations.ShiftTableFollowsTheFormula : Prop :=
  tableSH = #v[1, 2, 3, 4, 5, 1, 7, 3, 2, 5, 4, 2, 6, 4, 1, 1, 3, 3, 5] ∧
  ∀ (i : Nat) (_ : i < 19),
    tableSH[i].toNat = shift i ∧ shift i < 8 ∧ 1 ≤ shift i ∧ shift i ≤ 7 ∧
    (i % 2 = 0 → shift i = ((i + 1) % 256 + 256 - 7 * (i / 7)) % 256 % 8 ∧
      shift i = i % 7 + 1 ∧ tableRD i = .left) ∧
    (i % 2 = 1 → shift i = ((i + 1) % 256 + 256 - 5 * (i / 5)) % 256 % 8 ∧
      shift i = i % 5 + 1 ∧ tableRD i = .right)

/-- R19, whole: both rows of the micro-program by their codes and by the micro-operations they decode
to. -/
def Obligations.MicroProgramRowsDecode : Prop :=
  tableUROM .forward = #v[0x1, 0x2, 0x3, 0x4, 0x5, 0x6] ∧
  tableUROM .inverse = #v[0xe, 0xd, 0xc, 0xb, 0xa, 0x9] ∧
  (tableUROM .forward).toList.map (fun c => decode (.u c)) =
    [.instr .xswF, .instr .bxrF, .instr .brvF, .instr .irtF, .instr .cadF, .instr .nswF] ∧
  (tableUROM .inverse).toList.map (fun c => decode (.u c)) =
    [.instr .nswI, .instr .cadI, .instr .irtI, .instr .brvI, .instr .bxrI, .instr .xswI]

/-! ## Encoding -/

/-- R51 and R52: the twelve codes, the four reserved codes, and the two commands with their fields. -/
def Obligations.DecodedWordsAreTheTables : Prop :=
  decode (.u 0b0001) = .instr .xswF ∧ decode (.u 0b0010) = .instr .bxrF ∧
  decode (.u 0b0011) = .instr .brvF ∧ decode (.u 0b0100) = .instr .irtF ∧
  decode (.u 0b0101) = .instr .cadF ∧ decode (.u 0b0110) = .instr .nswF ∧
  decode (.u 0b1001) = .instr .xswI ∧ decode (.u 0b1010) = .instr .bxrI ∧
  decode (.u 0b1011) = .instr .brvI ∧ decode (.u 0b1100) = .instr .irtI ∧
  decode (.u 0b1101) = .instr .cadI ∧ decode (.u 0b1110) = .instr .nswI ∧
  (∀ code ∈ [(0b0000 : UCode), 0b0111, 0b1000, 0b1111], decode (.u code) = .reserved code) ∧
  (∀ (n : Len) (d : Buffer), decode (.cmd { dir := 0, n := n, d := d }) = .instr (.forward n d) ∧
    decode (.cmd { dir := 1, n := n, d := d }) = .instr (.invert n d))

/-- Decoding and encoding agree in both directions, for every instruction with every operand and
every code of both formats: a code decodes to an instruction exactly when it is that instruction's
encoding. -/
def Obligations.DecodeAndEncodeAgree : Prop :=
  ∀ (c : Code) (i : Instr), decode c = .instr i ↔ encode i = c

/-- R55, whole: exactly four codes are reserved, the decoder answers so, no entry of the micro-program
holds one, the executor refuses one, no step of the machine ever meets one, and every `CMD` is
legal. -/
def Obligations.ReservedCodesAreRefused : Prop :=
  (∀ code : UCode, decode (.u code) = .reserved code ↔
    code = 0x0 ∨ code = 0x7 ∨ code = 0x8 ∨ code = 0xf) ∧
  (∀ (dir : Direction) (code : UCode), code ∈ (tableUROM dir).toList →
    decode (.u code) ≠ .reserved code) ∧
  (∀ (code : UCode) (s : State), decode (.u code) = .reserved code →
    execCode code s = .refused (.reservedCode code)) ∧
  (∀ (s : State) (code : UCode), step s ≠ .refused (.reservedCode code)) ∧
  (∀ c : Command, ∃ i, decode (.cmd c) = .instr i)

/-! ## The step -/

/-- A step runs the decoded instruction. When the Host leaves the Engine its turn in `RUN`, the step
is `exec` of the micro-operation that the fetched code decodes to, followed by the advance of `SEQ`
and `ST` (R113). When the Host issues a command, the step is `exec` of the decoded command; that a
command is one operation of the Host, and that `exec` of it is its SUBMIT with the wait put first, is
the model's choice (log entry 4). When the Host makes a software call that the adapter turns into a
command, the step is `exec` of that command with the free-value counter moved on; the call as an
operation of the Host is the model's choice (log entry 11), and so is the counter (log entry 3). -/
def Obligations.StepRunsTheDecodedInstruction : Prop :=
  (∀ (s : State) (code : UCode) (i : Instr), LeavesTurn s → s.st = .run →
    (tableUROM s.dir)[s.seq.toNat]? = some code → decode (.u code) = .instr i →
    step s = match exec i (turnState s) with
      | .next t =>
        .next { t with seq := t.seq + 1, st := if t.seq + 1 = 6 then .done else t.st }
      | .fault r => .fault r
      | .refused r => .refused r) ∧
  (∀ (s : State) (c : Command) (rest : List HostOp) (i : Instr), s.seq ≠ 7 →
    resetRequested s = false → s.host = .command c :: rest → decode (.cmd c) = .instr i →
    step s = exec i { s with host := rest, resetLine := s.resetLine.tail }) ∧
  (∀ (s : State) (dir : Direction) (bytes : List Byte) (rest : List HostOp) (c : Command)
    (i : Instr), s.seq ≠ 7 → resetRequested s = false → s.host = .call dir bytes :: rest →
    adapt dir bytes (freeBuffer s.draws) = some c → decode (.cmd c) = .instr i →
    step s = exec i
      { s with host := rest, resetLine := s.resetLine.tail, draws := s.draws + 1 })

/-- R113 in `RUN`, and waiting outside it. In `RUN` with `SEQ` in 0..5 the Engine's step applies the
micro-operation of `UROM[DIR][SEQ]`, adds 1 to `SEQ`, sets `ST` to `DONE` exactly when the new value is
6, and changes nothing else. Outside `RUN` the Engine has no step; that the machine's step then answers
a state with the engine's own state kept is the model's choice (log entry 7). -/
def Obligations.EngineStepAppliesOneStage : Prop :=
  (∀ s : State, LeavesTurn s → s.st = .run → s.seq.toNat ≤ 5 →
    ∃ code i t u, (tableUROM s.dir)[s.seq.toNat]? = some code ∧ decode (.u code) = .instr i ∧
      exec i (turnState s) = .next t ∧ OnlyBufChanges (turnState s) t ∧
      step s = .next u ∧ u.buf = t.buf ∧ u.seq.toNat = s.seq.toNat + 1 ∧
      u.st = (if u.seq = 6 then .done else .run) ∧ u.dir = s.dir ∧ u.replies = s.replies) ∧
  (∀ s : State, LeavesTurn s → s.st ≠ .run → s.seq ≠ 7 →
    ∃ t, step s = .next t ∧ EngineKept s t)

/-- From an accepted well-formed SUBMIT the Engine is in `RUN` with `SEQ = k` after `k` of its steps for
`k` up to 5, and from the sixth on in `DONE` with `SEQ = 6` and the buffer FORWARD or INVERT of the
payload, which it keeps; the step with `SEQ = 5` applies NSW.F or XSW.I (R114, R119). That each stage
is one step of the model is its choice (log entry 13), and so are the waiting steps after the sixth
(log entry 7) and the Host as a list of operations (log entry 1). A Host that goes on acting, and the
SUBMIT of a command or a software call, stand in statements of their own. -/
def Obligations.TransactionCompletesInSixSteps : Prop :=
  (∀ (s : State) (c : Command), s.seq ≠ 7 → s.st ≠ .run → NoReset s →
    s.host = [.submit c] → c.n = 19 →
    (∀ k ≤ 5, ∃ t, run (1 + k) s = .next t ∧ t.st = .run ∧ t.seq.toNat = k ∧
      t.dir = Direction.ofCode c.dir) ∧
    (∀ m, ∃ t, run (7 + m) s = .next t ∧ t.st = .done ∧ t.seq = 6 ∧
      t.dir = Direction.ofCode c.dir ∧ t.replies = s.replies ∧
      t.buf = sequenceOf (Direction.ofCode c.dir) c.d)) ∧
  (∀ s : State, LeavesTurn s → s.st = .run → s.seq = 5 → ∃ t u, step s = .next u ∧
    exec (match s.dir with | .forward => .nswF | .inverse => .xswI) s = .next t ∧
    u.buf = t.buf ∧ u.seq = 6 ∧ u.st = .done ∧ u.dir = s.dir)

/-- The control invariant holds at reset: R21's values of `ST`, `DIR` and `SEQ`. -/
def Obligations.ResetMeetsTheControlInvariant : Prop :=
  State.reset.st = .idle ∧ State.reset.dir = .forward ∧ State.reset.seq = 0 ∧
  State.reset.controlOk = true

/-- Every step keeps the control invariant: in `IDLE` the reset values of `DIR` and `SEQ`, in `RUN` an
index 0..5, in `DONE` the index 6, in `ERR` what the state before the failed SUBMIT had. -/
def Obligations.EveryStepKeepsTheControlInvariant : Prop :=
  ∀ s t : State, s.controlOk = true → step s = .next t → t.controlOk = true

/-- No state that meets the control invariant is stuck: whatever the Host does, the step gives a next
state, so the machine neither faults nor refuses (R122, R132). In `RUN` with the Host leaving the turn
that is the Engine's step. In `IDLE`, `DONE` and `ERR` the Engine has none (R113): that an idle Host
then still finds a next state, a waiting step, is the model's choice (log entry 7). -/
def Obligations.NoSafeStateIsStuck : Prop :=
  ∀ s : State, s.controlOk = true → ∃ t, step s = .next t

/-! ## SUBMIT and the exception -/

/-- R112, whole: an accepted SUBMIT that declares 19 bytes loads the payload, the direction, `SEQ = 0`
and `ST = RUN`, whatever the bytes and whatever was there, and changes nothing else. -/
def Obligations.WellFormedSubmitLoads : Prop :=
  ∀ (s : State) (c : Command) (rest : List HostOp), s.seq ≠ 7 → resetRequested s = false →
    s.st ≠ .run → s.host = .submit c :: rest → c.n = 19 →
    step s = .next { s with
      buf := c.d, dir := Direction.ofCode c.dir, seq := 0, st := .run,
      host := rest, resetLine := s.resetLine.tail }

/-- R111 and R131, whole: an accepted SUBMIT that declares any other length, in either direction and
with any payload, sets `ST` to `ERR` and changes nothing else. -/
def Obligations.MalformedSubmitTakesShapeError : Prop :=
  ∀ (s : State) (c : Command) (rest : List HostOp), s.seq ≠ 7 → resetRequested s = false →
    s.st ≠ .run → s.host = .submit c :: rest → c.n ≠ 19 →
    step s = .next { s with st := .err, host := rest, resetLine := s.resetLine.tail }

/-- R110, whole: a SUBMIT is accepted if and only if `ST` is not `RUN`; in `RUN` it changes nothing and
is not queued, and the same SUBMIT can be offered again. -/
def Obligations.SubmitIsAcceptedOnlyOutsideRun : Prop :=
  (∀ (s : State) (c : Command) (rest : List HostOp), s.seq ≠ 7 → resetRequested s = false →
    s.st = .run → s.host = .submit c :: rest →
    step s = .next { s with host := rest, resetLine := s.resetLine.tail }) ∧
  (∀ (s : State) (c : Command) (rest : List HostOp), s.seq ≠ 7 → resetRequested s = false →
    s.st ≠ .run → s.host = .submit c :: rest →
    ∃ t, step s = .next t ∧ t.st = if c.n = 19 then .run else .err)

/-- R130: the only event that brings `ST` to `ERR` is an accepted SUBMIT whose declared length is not
19; the cause code is 1 exactly in `ERR`; nothing of the command is recorded, so two such SUBMITs
leave the same state. -/
def Obligations.OnlyMalformedSubmitRaisesShapeError : Prop :=
  (∀ s t : State, step s = .next t → s.st ≠ .err → t.st = .err →
    ∃ c, Accepts s c ∧ c.n ≠ 19) ∧
  (∀ s : State, rspErr s = 1 ↔ s.st = .err) ∧
  (∀ (s : State) (c c' : Command), s.st ≠ .run → c.n ≠ 19 → c'.n ≠ 19 →
    submit c s = submit c' s ∧ (submit c s).st = .err)

/-- R133, whole: `ERR` persists until a well-formed SUBMIT is accepted or RESET takes effect; a SUBMIT
in `ERR` does exactly what it does in `IDLE`; no exception is raised in `RUN`. -/
def Obligations.ErrIsLeftBySubmitOrReset : Prop :=
  (∀ s t : State, s.st = .err → step s = .next t → t.st = .err ∨ resetRequested s = true ∨
    ∃ c, Accepts s c ∧ c.n = 19 ∧ t.st = .run) ∧
  (∀ (s : State) (c : Command) (rest : List HostOp), s.seq ≠ 7 → s.st = .err →
    resetRequested s = false → s.host = .submit c :: rest → step s = step { s with st := .idle } ∧
    ∃ t, step s = .next t ∧ t.st = if c.n = 19 then .run else .err) ∧
  (∀ s t : State, s.st = .run → step s = .next t → t.st ≠ .err)

/-- The adapter gives a software buffer of fewer than 256 bytes its length and its bytes, and reports a
longer one as ShapeError while the engine sees nothing (R41); the payload (R41, R111) and the direction
(R111) of a malformed SUBMIT are ignored. That a software call is an operation of the Host with a step
of its own, and that the adapter serves both directions, is the model's choice (log entry 11). -/
def Obligations.AdapterBuildsTheCommand : Prop :=
  (∀ (dir : Direction) (bytes : List Byte) (pad : Buffer), bytes.length < 256 →
    ∃ c, adapt dir bytes pad = some c ∧ Direction.ofCode c.dir = dir ∧
      c.n.toNat = bytes.length ∧
      ∀ (i : Nat) (_ : i < 19) (_ : i < bytes.length), c.d[i] = bytes[i]) ∧
  (∀ (s : State) (dir : Direction) (bytes : List Byte) (rest : List HostOp),
    s.seq ≠ 7 → resetRequested s = false → s.host = .call dir bytes :: rest → 256 ≤ bytes.length →
    ∃ t, step s = .next t ∧ EngineKept s t ∧ t.replies = .shapeError :: s.replies ∧
      t.host = rest) ∧
  (∀ (s : State) (dir dir' : BitVec 1) (n : Len) (d d' : Buffer), n ≠ 19 →
    submit { dir := dir, n := n, d := d } s = submit { dir := dir', n := n, d := d' } s)

/-! ## RESULT -/

/-- R115, whole: in `DONE` RESULT returns the 19 bytes of `BUF` in order and changes no state of the
engine, and every repetition returns the same bytes. -/
def Obligations.ResultInDoneReturnsTheBuffer : Prop :=
  (∀ (s : State) (rest : List HostOp), s.seq ≠ 7 → resetRequested s = false → s.st = .done →
    s.host = .result :: rest →
    step s = .next { s with
      replies := .data s.buf :: s.replies, host := rest, resetLine := s.resetLine.tail }) ∧
  (∀ (s : State) (m : Nat), s.seq ≠ 7 → NoReset s → s.st = .done →
    s.host = List.replicate m .result →
    ∃ t, run m s = .next t ∧ EngineKept s t ∧
      t.replies = List.replicate m (.data s.buf) ++ s.replies)

/-- R116: in `ERR` RESULT returns ShapeError and no data, in `IDLE` and `RUN` it returns nothing, and
it never changes the engine; outside `DONE` no operation of the Host returns anything that depends on
`BUF`. -/
def Obligations.ResultOutsideDoneReturnsNoData : Prop :=
  (∀ (s : State) (rest : List HostOp), s.seq ≠ 7 → resetRequested s = false → s.st = .err →
    s.host = .result :: rest →
    step s = .next { s with
      replies := .shapeError :: s.replies, host := rest, resetLine := s.resetLine.tail }) ∧
  (∀ (s : State) (rest : List HostOp), s.seq ≠ 7 → resetRequested s = false →
    s.st = .idle ∨ s.st = .run →
    s.host = .result :: rest →
    step s = .next { s with host := rest, resetLine := s.resetLine.tail }) ∧
  (∀ (s t : State) (b : Buffer), s.st ≠ .done → step s = .next t →
    ∃ t', step { s with buf := b } = .next t' ∧ t'.replies = t.replies)

/-- R154, whole: a result stays, in `DONE` and in `BUF`, until the next accepted SUBMIT or RESET; a
well-formed SUBMIT overwrites it, and a malformed one leaves it in `BUF` where RESULT no longer
returns it. -/
def Obligations.ResultLastsUntilSubmitOrReset : Prop :=
  ∀ s t : State, s.st = .done → step s = .next t →
    (t.st = .done ∧ t.buf = s.buf) ∨ (resetRequested s = true ∧ t.st = .idle) ∨
    ∃ c, Accepts s c ∧
      ((c.n = 19 ∧ t.st = .run ∧ t.buf = c.d) ∨
       (c.n ≠ 19 ∧ t.st = .err ∧ t.buf = s.buf ∧ readResult t = some .shapeError))

/-! ## Commands -/

/-- What the two commands do when they are executed, for every state and every operand: accepted and
well-formed, they load the payload and leave the Host waiting for the result; accepted and malformed,
they raise ShapeError and leave the Host waiting for the indication; in `RUN` they are turned away.
That the Host's wait is an operation put before its other ones is the model's choice (log entry 4). -/
def Obligations.CommandsSubmitAndAwait : Prop :=
  ∀ (s : State) (n : Len) (d : Buffer),
    (s.st ≠ .run → n = 19 →
      exec (.forward n d) s = .next { s with
        buf := d, dir := .forward, seq := 0, st := .run, host := .awaitResult :: s.host } ∧
      exec (.invert n d) s = .next { s with
        buf := d, dir := .inverse, seq := 0, st := .run, host := .awaitResult :: s.host }) ∧
    (s.st ≠ .run → n ≠ 19 →
      exec (.forward n d) s = .next { s with st := .err, host := .awaitResult :: s.host } ∧
      exec (.invert n d) s = .next { s with st := .err, host := .awaitResult :: s.host }) ∧
    (s.st = .run → exec (.forward n d) s = .next s ∧ exec (.invert n d) s = .next s)

/-- FORWARD on `b` runs `UROM[0]` and returns FORWARD of `b` (R117). That it takes eight steps, one for
the SUBMIT, six for the stages and one for the RESULT, rests on the model's choices: a command executes
its SUBMIT and leaves the wait to the Host's list (log entry 4), the wait ends when `ST` is not `RUN`
and performs RESULT once (log entry 12), and each stage is one step (log entry 13). -/
def Obligations.ForwardCommandReturnsForward : Prop :=
  (tableUROM .forward).toList.map (fun c => decode (.u c)) =
    [.instr .xswF, .instr .bxrF, .instr .brvF, .instr .irtF, .instr .cadF, .instr .nswF] ∧
  ∀ (s : State) (b : Buffer) (rest : List HostOp), s.seq ≠ 7 → s.st ≠ .run → NoReset s →
    s.host = .command { dir := 0, n := 19, d := b } :: rest →
    ∃ t, run 8 s = .next t ∧ t.replies = .data (forwardSequence b) :: s.replies ∧
      t.st = .done ∧ t.dir = .forward ∧ t.seq = 6 ∧ t.buf = forwardSequence b ∧ t.host = rest

/-- INVERT on `f` runs `UROM[1]` and returns INVERT of `f`; with any other declared length the same
sequence returns ShapeError (R118). That the wait ends in `ERR` as well is the model's reading (log
entry 12, DEDUCED). The step counts, eight and two, rest on the model's choices: a command executes its
SUBMIT and leaves the wait to the Host's list (log entry 4), and each stage is one step (log
entry 13). -/
def Obligations.InvertCommandReturnsInvert : Prop :=
  (tableUROM .inverse).toList.map (fun c => decode (.u c)) =
    [.instr .nswI, .instr .cadI, .instr .irtI, .instr .brvI, .instr .bxrI, .instr .xswI] ∧
  (∀ (s : State) (f : Buffer) (rest : List HostOp), s.seq ≠ 7 → s.st ≠ .run → NoReset s →
    s.host = .command { dir := 1, n := 19, d := f } :: rest →
    ∃ t, run 8 s = .next t ∧ t.replies = .data (invertSequence f) :: s.replies ∧
      t.st = .done ∧ t.dir = .inverse ∧ t.seq = 6 ∧ t.buf = invertSequence f ∧ t.host = rest) ∧
  (∀ (s : State) (n : Len) (f : Buffer) (rest : List HostOp), s.seq ≠ 7 → s.st ≠ .run →
    NoReset s → n ≠ 19 → s.host = .command { dir := 1, n := n, d := f } :: rest →
    ∃ t, run 2 s = .next t ∧ t.replies = .shapeError :: s.replies ∧ t.st = .err ∧
      t.buf = s.buf ∧ t.dir = s.dir ∧ t.seq = s.seq ∧ t.host = rest)

/-- R2 of the machine itself: the INVERT command on `f` returns a buffer that FORWARD takes to `f`, and
it is the only one. That the reply comes with the eighth step rests on the model's choices: the command
as its SUBMIT and a wait (log entry 4), the end of the wait (log entry 12), and one stage per step (log
entry 13). -/
def Obligations.InvertCommandReturnsTheUniquePreimage : Prop :=
  ∀ (s : State) (f : Buffer) (rest : List HostOp), s.seq ≠ 7 → s.st ≠ .run → NoReset s →
    s.host = .command { dir := 1, n := 19, d := f } :: rest →
    ∃ t x, run 8 s = .next t ∧ t.replies = .data x :: s.replies ∧
      forwardSequence x = f ∧ ∀ y, forwardSequence y = f → y = x

/-- What a SUBMIT leads to is a function of its own fields (R120). From any state that accepts it, after
any wait of at least the six engine steps and however often RESULT is performed, every reply is that
function's value; nothing of the state before enters. That a stage is one step of the wait is the
model's choice (log entry 13), and so are the waiting steps after the sixth, which change nothing (log
entry 7). -/
def Obligations.ReplyDependsOnTheCommandOnly : Prop :=
  ∀ (c : Command) (k m : Nat) (s : State), s.seq ≠ 7 → s.st ≠ .run → NoReset s →
    s.host = .submit c :: (List.replicate (6 + k) .idle ++ List.replicate m .result) →
    ∃ t, run (7 + k + m) s = .next t ∧
      t.replies = List.replicate m (replyOf c) ++ s.replies

/-! ## RESET -/

/-- RESET in any state with a legal `SEQ` (R12), whatever the Host does in that step, gives `ST = IDLE`, `DIR = 0` and `SEQ = 0`
and makes the engine accept a SUBMIT (R150). Of the buffer the statement says nothing, since it is
unspecified. That the Host keeps what it has received, and that its coinciding operation is lost, is
the model's reading (log entry 14, DEDUCED). -/
def Obligations.ResetSetsTheControlFields : Prop :=
  ∀ s : State, s.seq ≠ 7 → resetRequested s = true → ∃ t, step s = .next t ∧
    t.st = .idle ∧ t.dir = .forward ∧ t.seq = 0 ∧ cmdReady t = true ∧
    t.replies = s.replies ∧ t.host = s.host.tail ∧ t.resetLine = s.resetLine.tail

/-- When RESET coincides with a SUBMIT or an engine step only RESET takes effect; the acceptance test
comes before the shape check, so a malformed SUBMIT in `RUN` raises nothing; and a SUBMIT cannot be
accepted where an engine step is enabled (R134). That RESET wins in the same way over a RESULT, a wait
and a software call, which R134 does not name, is the model's reading (log entry 14, DEDUCED and marked
unsafe for this claim). That the unspecified buffer after RESET is the same one whatever the Host did
in that step is the model's choice of one free buffer per draw (log entry 3), and no rule gives it. -/
def Obligations.ResetHasPriorityAndAcceptanceComesFirst : Prop :=
  (∀ (s : State) (ops : List HostOp), s.seq ≠ 7 → resetRequested s = true →
    ∃ t t', step s = .next t ∧ step { s with host := ops } = .next t' ∧ t.st = .idle ∧
      EngineKept t t' ∧ t'.replies = t.replies ∧ t.replies = s.replies) ∧
  (∀ (s : State) (c : Command), s.st = .run → c.n ≠ 19 → submit c s = s) ∧
  (∀ s : State, cmdReady s = !engineEnabled s)

/-- RESET in any state with a legal `SEQ` (R12) ends the transaction (R151): no further stage executes, and no result and no error
indication of it is ever produced, however long the Host then does nothing, waits for the result or
performs RESULT, in any order. The engine stays as RESET left it and no reply is delivered. That an
operation that coincides with RESET delivers nothing is the model's reading (log entry 14, DEDUCED),
that a wait ends in `IDLE` with nothing returned is another (log entry 12, DEDUCED), and the waiting
steps are the model's choice (log entry 7). -/
def Obligations.ResetAbandonsTheTransaction : Prop :=
  ∀ s : State, s.seq ≠ 7 → resetRequested s = true →
    (∀ r ∈ s.resetLine.tail, r = false) →
    (∀ op ∈ s.host.tail, op = .idle ∨ op = .result ∨ op = .awaitResult) →
    ∃ u, step s = .next u ∧ u.st = .idle ∧ u.dir = .forward ∧ u.seq = 0 ∧
      u.replies = s.replies ∧
      ∀ k, ∃ t, run (1 + k) s = .next t ∧ EngineKept u t ∧ t.replies = s.replies

/-- Reset leaves `ST = IDLE`, `DIR = 0` and `SEQ = 0`, and the unspecified buffer is never observable
(R21): from a state in `IDLE` no run of any length under any operations of the Host shows which bytes
the buffer held. The same holds from a state in `ERR`, where RESULT returns no data byte (R116) and
which only a SUBMIT or RESET leaves (R133). The runs contain the model's waiting steps (log entry 7),
and two runs that pass a RESET draw the same free buffer (log entry 3). -/
def Obligations.UnspecifiedBufferIsNotObservable : Prop :=
  (State.reset.st = .idle ∧ State.reset.dir = .forward ∧ State.reset.seq = 0) ∧
  ∀ (s t : State) (b : Buffer) (k : Nat), s.st = .idle ∨ s.st = .err → run k s = .next t →
    ∃ t', run k { s with buf := b } = .next t' ∧ t'.replies = t.replies ∧ t'.st = t.st ∧
      t'.dir = t.dir ∧ t'.seq = t.seq

/-! ## Who writes what -/

/-- The writing half of R11: `BUF` changes only by RESET, by an accepted well-formed SUBMIT, which
writes the payload, or by the Engine's step in `RUN`. -/
def Obligations.BufferIsWrittenOnlyBySubmitAndEngine : Prop :=
  ∀ s t : State, step s = .next t → t.buf ≠ s.buf →
    resetRequested s = true ∨ (∃ c, Accepts s c ∧ c.n = 19 ∧ t.buf = c.d) ∨
    (LeavesTurn s ∧ s.st = .run ∧ t.seq = s.seq + 1)

/-- R12, whole: `SEQ` is set to 0 by RESET and by an accepted well-formed SUBMIT, is incremented by the
Engine's step, and is written by nothing else; under the control invariant it never becomes 7, in `RUN`
it is the index 0..5 of the next micro-operation, and in `DONE` it is 6. -/
def Obligations.SequencerIsWrittenOnlyByItsThreeWriters : Prop :=
  ∀ s t : State, step s = .next t →
    ((resetRequested s = true ∧ t.seq = 0) ∨ (∃ c, Accepts s c ∧ c.n = 19 ∧ t.seq = 0) ∨
      (LeavesTurn s ∧ s.st = .run ∧ s.seq.toNat ≤ 5 ∧ t.seq.toNat = s.seq.toNat + 1) ∨
      t.seq = s.seq) ∧
    (s.controlOk = true → t.seq ≠ 7 ∧
      (t.st = .run → t.seq.toNat ≤ 5 ∧ fetchCode t = (tableUROM t.dir)[t.seq.toNat]? ∧
        ∃ code, fetchCode t = some code) ∧
      (t.st = .done → t.seq = 6))

/-- What the model refuses by a value of `SEQ`, and nothing else. Every state with `SEQ = 7` is refused,
whatever its status, the Host's operation and the reset line (R12 says that 7 is never reached, S5 of
the implementation-defined file says to refuse such a state; that this goes before RESET and the host
operations is the model's reading, log entry 21, DEDUCED). `RUN` with `SEQ = 6` is refused where the
Engine would step (log entry 8, DEDUCED). No step is refused otherwise, and none leads to 7. -/
def Obligations.SequencerOutOfRangeIsRefused : Prop :=
  (∀ s : State, s.seq = 7 → step s = .refused (.sequencerOutOfRange 7)) ∧
  (∀ s : State, LeavesTurn s → s.st = .run → s.seq = 6 →
    step s = .refused (.sequencerOutOfRange 6)) ∧
  (∀ (s : State) (r : Refusal), step s = .refused r →
    s.seq = 7 ∨ (LeavesTurn s ∧ s.st = .run ∧ s.seq = 6)) ∧
  (∀ s t : State, step s = .next t → s.seq ≠ 7 ∧ t.seq ≠ 7)

/-- R13, whole: `DIR` is written only by RESET, to 0, and by an accepted well-formed SUBMIT, from its
`dir`; so it is constant in `RUN` unless RESET comes. It selects the row that the Engine fetches
from. -/
def Obligations.DirectionIsConstantInATransaction : Prop :=
  (∀ s t : State, step s = .next t →
    (resetRequested s = true ∧ t.dir = .forward) ∨
    (∃ c, Accepts s c ∧ c.n = 19 ∧ t.dir = if c.dir = 0 then .forward else .inverse) ∨
    t.dir = s.dir) ∧
  (∀ s t : State, step s = .next t → s.st = .run → resetRequested s = false → t.dir = s.dir) ∧
  (∀ s : State, fetchCode s =
    (match s.dir with
      | .forward => #v[(0x1 : UCode), 0x2, 0x3, 0x4, 0x5, 0x6]
      | .inverse => #v[0xe, 0xd, 0xc, 0xb, 0xa, 0x9])[s.seq.toNat]?)

/-- The codes and the writers of `ST` (R14 and the transition table of the sequencer file): RESET, an
accepted SUBMIT, and the engine step that executes the sixth micro-operation. -/
def Obligations.StatusFollowsTheTransitionTable : Prop :=
  (Status.code .idle = 0 ∧ Status.code .run = 1 ∧ Status.code .done = 2 ∧
    Status.code .err = 3) ∧
  ∀ s t : State, step s = .next t →
    t.st = s.st ∨ (resetRequested s = true ∧ t.st = .idle) ∨
    (∃ c, Accepts s c ∧ t.st = if c.n = 19 then .run else .err) ∨
    (LeavesTurn s ∧ s.st = .run ∧ s.seq = 5 ∧ t.seq = 6 ∧ t.st = .done)

/-! ## The functions as a whole -/

/-- R97, whole: for each of the six stages, in either order, the two forms undo each other on every
state. -/
def Obligations.EveryStageFormUndoesTheOther : Prop :=
  ∀ p ∈ [(Instr.xswF, Instr.xswI), (.bxrF, .bxrI), (.brvF, .brvI), (.irtF, .irtI),
      (.cadF, .cadI), (.nswF, .nswI)],
    ∀ s : State, (∃ t, exec p.1 s = .next t ∧ exec p.2 t = .next s) ∧
      ∃ t, exec p.2 s = .next t ∧ exec p.1 t = .next s

/-- R98, whole: both round trips on every buffer, and INVERT gives the unique preimage under
FORWARD. -/
def Obligations.ForwardAndInvertAreMutuallyInverse : Prop :=
  (∀ b : Buffer, forwardSequence (invertSequence b) = b ∧ invertSequence (forwardSequence b) = b) ∧
  (∀ b x : Buffer, forwardSequence x = b ↔ x = invertSequence b)

/-- R99, whole: BXR, BRV and NSW are involutive and equal to their inverse forms; XSW, IRT and CAD are
not involutive, and XSW.I is not XSW.F. -/
def Obligations.ExactlyThreeStagesAreInvolutive : Prop :=
  (∀ p ∈ [(Instr.bxrF, Instr.bxrI), (.brvF, .brvI), (.nswF, .nswI)], ∀ s : State,
    exec p.1 s = exec p.2 s ∧ ∃ t, exec p.1 s = .next t ∧ exec p.1 t = .next s) ∧
  (∀ i ∈ [Instr.xswF, .irtF, .cadF], ∃ s t u : State,
    exec i s = .next t ∧ exec i t = .next u ∧ u.buf ≠ s.buf) ∧
  (∃ s : State, exec .xswF s ≠ exec .xswI s) ∧
  (∀ s t u : State, s.buf = #v[0x00, 0x01, 0x02, 0x03, 0x04, 0x05, 0x06, 0x07, 0x08, 0x09,
        0x0a, 0x0b, 0x0c, 0x0d, 0x0e, 0x0f, 0x10, 0x11, 0x12] →
    exec .xswF s = .next t → exec .xswF t = .next u →
    u.buf = #v[0x06, 0x07, 0x08, 0x09, 0x0a, 0x0b, 0x0c, 0x0d, 0x0e, 0x0f,
        0x10, 0x11, 0x12, 0x72, 0x58, 0x42, 0x75, 0x5d, 0x41])

/-- The lane-local stages (R31, R70, R159): a lane of the result depends on the same lane of the old
buffer only, so no carry, borrow or bit passes between lanes. -/
def Obligations.LaneLocalStagesKeepLanesApart : Prop :=
  ∀ i ∈ [Instr.bxrF, .irtF, .cadF, .nswF, .bxrI, .irtI, .cadI, .nswI],
    ∀ (s s' t t' : State) (l : Nat) (_ : l < 19), exec i s = .next t → exec i s' = .next t' →
      s.buf[l] = s'.buf[l] → t.buf[l] = t'.buf[l]

/-- The packing that R33 gives the informative 152-bit word: position `i` occupies bits `8i` to
`8i+7`, and unpacking undoes it. -/
def Obligations.PackedWordHoldsEveryByte : Prop :=
  (∀ (b : Buffer) (i : Nat) (_ : i < 19), (packBuffer b).extractLsb' (8 * i) 8 = b[i]) ∧
  (∀ b : Buffer, unpackBuffer (packBuffer b) = b) ∧
  (∀ w : BitVec 152, packBuffer (unpackBuffer w) = w)

/-- The source's end-to-end literal (test vector SRC1): its inverse, and FORWARD of that. -/
def Obligations.EndToEndLiteralRoundTrips : Prop :=
  invertSequence #v[0x0e, 0xac, 0x94, 0x46, 0xc6, 0x6f, 0xbe, 0x72, 0xb7, 0x5d,
        0x79, 0xee, 0xe2, 0xd0, 0xed, 0xa2, 0xc6, 0x28, 0x8a] =
    #v[0x59, 0x6f, 0x55, 0x5f, 0x50, 0x61, 0x73, 0x53, 0x5f, 0x33,
        0x38, 0x34, 0x33, 0x31, 0x2d, 0x32, 0x30, 0x32, 0x36] ∧
  forwardSequence #v[0x59, 0x6f, 0x55, 0x5f, 0x50, 0x61, 0x73, 0x53, 0x5f, 0x33,
        0x38, 0x34, 0x33, 0x31, 0x2d, 0x32, 0x30, 0x32, 0x36] =
    #v[0x0e, 0xac, 0x94, 0x46, 0xc6, 0x6f, 0xbe, 0x72, 0xb7, 0x5d,
        0x79, 0xee, 0xe2, 0xd0, 0xed, 0xa2, 0xc6, 0x28, 0x8a]
end

