-- ==== Sys2Proof/Laws/Decode.lean ====
section
/-! SUPPORT. Small facts about the two formats. -/

namespace Sys2Proof

@[simp] theorem Direction.ofCode_code (dir : Direction) : Direction.ofCode dir.code = dir := by
  cases dir <;> rfl

@[simp] theorem Direction.ofCode_zero : Direction.ofCode 0 = .forward := rfl

@[simp] theorem Direction.ofCode_one : Direction.ofCode 1 = .inverse := rfl

@[simp] theorem Direction.code_ofCode (b : BitVec 1) : (Direction.ofCode b).code = b := by
  revert b; decide

@[simp] theorem Stage.ofNumber_number (stage : Stage) :
    Stage.ofNumber stage.number = some stage := by
  cases stage <;> rfl

@[simp] theorem UCode.stg_ofFields (stage : Stage) (dir : Direction) :
    UCode.stg (UCode.ofFields stage dir) = stage.number := by
  cases stage <;> cases dir <;> rfl

@[simp] theorem UCode.inv_ofFields (stage : Stage) (dir : Direction) :
    UCode.inv (UCode.ofFields stage dir) = dir.code := by
  cases stage <;> cases dir <;> rfl

/-- A code built from its fields decodes to the micro-operation of those fields (R50). -/
theorem decodeU_ofFields (stage : Stage) (dir : Direction) :
    decodeU (UCode.ofFields stage dir) = .instr (Instr.ofStage stage dir) := by
  simp [decodeU]

/-- The well-formedness of a code is that its stage number names a stage (R55). -/
theorem UCode.wellFormed_iff (c : UCode) :
    UCode.wellFormed c = true ↔ (Stage.ofNumber (UCode.stg c)).isSome = true := by
  revert c; decide

end Sys2Proof
end

