-- ==== Sys2Proof/Laws/State.lean ====
section
/-! SUPPORT. One lemma per field for each update of the state, so that no proof unfolds a record
update. -/

namespace Sys2Proof.Machine

section
variable (s : State) (f : Buffer → Buffer) (dir : Direction) (d : Buffer) (r : Reply) (op : HostOp)

@[simp] theorem applyStage_buf : (applyStage f s).buf = f s.buf := rfl
@[simp] theorem applyStage_st : (applyStage f s).st = s.st := rfl
@[simp] theorem applyStage_dir : (applyStage f s).dir = s.dir := rfl
@[simp] theorem applyStage_seq : (applyStage f s).seq = s.seq := rfl
@[simp] theorem applyStage_resetLine : (applyStage f s).resetLine = s.resetLine := rfl
@[simp] theorem applyStage_host : (applyStage f s).host = s.host := rfl
@[simp] theorem applyStage_replies : (applyStage f s).replies = s.replies := rfl
@[simp] theorem applyStage_draws : (applyStage f s).draws = s.draws := rfl

@[simp] theorem loadTransaction_buf : (loadTransaction dir d s).buf = d := rfl
@[simp] theorem loadTransaction_st : (loadTransaction dir d s).st = .run := rfl
@[simp] theorem loadTransaction_dir : (loadTransaction dir d s).dir = dir := rfl
@[simp] theorem loadTransaction_seq : (loadTransaction dir d s).seq = 0 := rfl
@[simp] theorem loadTransaction_resetLine :
    (loadTransaction dir d s).resetLine = s.resetLine := rfl
@[simp] theorem loadTransaction_host : (loadTransaction dir d s).host = s.host := rfl
@[simp] theorem loadTransaction_replies : (loadTransaction dir d s).replies = s.replies := rfl
@[simp] theorem loadTransaction_draws : (loadTransaction dir d s).draws = s.draws := rfl

@[simp] theorem raiseShapeError_buf : (raiseShapeError s).buf = s.buf := rfl
@[simp] theorem raiseShapeError_st : (raiseShapeError s).st = .err := rfl
@[simp] theorem raiseShapeError_dir : (raiseShapeError s).dir = s.dir := rfl
@[simp] theorem raiseShapeError_seq : (raiseShapeError s).seq = s.seq := rfl
@[simp] theorem raiseShapeError_resetLine : (raiseShapeError s).resetLine = s.resetLine := rfl
@[simp] theorem raiseShapeError_host : (raiseShapeError s).host = s.host := rfl
@[simp] theorem raiseShapeError_replies : (raiseShapeError s).replies = s.replies := rfl
@[simp] theorem raiseShapeError_draws : (raiseShapeError s).draws = s.draws := rfl

@[simp] theorem deliver_buf : (deliver r s).buf = s.buf := rfl
@[simp] theorem deliver_st : (deliver r s).st = s.st := rfl
@[simp] theorem deliver_dir : (deliver r s).dir = s.dir := rfl
@[simp] theorem deliver_seq : (deliver r s).seq = s.seq := rfl
@[simp] theorem deliver_resetLine : (deliver r s).resetLine = s.resetLine := rfl
@[simp] theorem deliver_host : (deliver r s).host = s.host := rfl
@[simp] theorem deliver_replies : (deliver r s).replies = r :: s.replies := rfl
@[simp] theorem deliver_draws : (deliver r s).draws = s.draws := rfl

@[simp] theorem resetEvent_buf : (resetEvent s).buf = freeBuffer s.draws := rfl
@[simp] theorem resetEvent_st : (resetEvent s).st = .idle := rfl
@[simp] theorem resetEvent_dir : (resetEvent s).dir = .forward := rfl
@[simp] theorem resetEvent_seq : (resetEvent s).seq = 0 := rfl
@[simp] theorem resetEvent_resetLine : (resetEvent s).resetLine = s.resetLine := rfl
@[simp] theorem resetEvent_host : (resetEvent s).host = s.host := rfl
@[simp] theorem resetEvent_replies : (resetEvent s).replies = s.replies := rfl
@[simp] theorem resetEvent_draws : (resetEvent s).draws = s.draws + 1 := rfl

@[simp] theorem advance_buf : (advance s).buf = s.buf := rfl
@[simp] theorem advance_st : (advance s).st = if s.seq + 1 = 6 then .done else s.st := rfl
@[simp] theorem advance_dir : (advance s).dir = s.dir := rfl
@[simp] theorem advance_seq : (advance s).seq = s.seq + 1 := rfl
@[simp] theorem advance_resetLine : (advance s).resetLine = s.resetLine := rfl
@[simp] theorem advance_host : (advance s).host = s.host := rfl
@[simp] theorem advance_replies : (advance s).replies = s.replies := rfl
@[simp] theorem advance_draws : (advance s).draws = s.draws := rfl

@[simp] theorem popResetLine_buf : (popResetLine s).buf = s.buf := rfl
@[simp] theorem popResetLine_st : (popResetLine s).st = s.st := rfl
@[simp] theorem popResetLine_dir : (popResetLine s).dir = s.dir := rfl
@[simp] theorem popResetLine_seq : (popResetLine s).seq = s.seq := rfl
@[simp] theorem popResetLine_resetLine : (popResetLine s).resetLine = s.resetLine.tail := rfl
@[simp] theorem popResetLine_host : (popResetLine s).host = s.host := rfl
@[simp] theorem popResetLine_replies : (popResetLine s).replies = s.replies := rfl
@[simp] theorem popResetLine_draws : (popResetLine s).draws = s.draws := rfl

@[simp] theorem popHost_buf : (popHost s).buf = s.buf := rfl
@[simp] theorem popHost_st : (popHost s).st = s.st := rfl
@[simp] theorem popHost_dir : (popHost s).dir = s.dir := rfl
@[simp] theorem popHost_seq : (popHost s).seq = s.seq := rfl
@[simp] theorem popHost_resetLine : (popHost s).resetLine = s.resetLine := rfl
@[simp] theorem popHost_host : (popHost s).host = s.host.tail := rfl
@[simp] theorem popHost_replies : (popHost s).replies = s.replies := rfl
@[simp] theorem popHost_draws : (popHost s).draws = s.draws := rfl

@[simp] theorem pushHost_buf : (pushHost op s).buf = s.buf := rfl
@[simp] theorem pushHost_st : (pushHost op s).st = s.st := rfl
@[simp] theorem pushHost_dir : (pushHost op s).dir = s.dir := rfl
@[simp] theorem pushHost_seq : (pushHost op s).seq = s.seq := rfl
@[simp] theorem pushHost_resetLine : (pushHost op s).resetLine = s.resetLine := rfl
@[simp] theorem pushHost_host : (pushHost op s).host = op :: s.host := rfl
@[simp] theorem pushHost_replies : (pushHost op s).replies = s.replies := rfl
@[simp] theorem pushHost_draws : (pushHost op s).draws = s.draws := rfl

end

end Sys2Proof.Machine
end

