-- ==== Sys2Proof/Laws/Ops.lean ====
section
/-! SUPPORT. Everything a shared operation can do, said once for each. -/

namespace Sys2Proof.Machine

theorem cmdReady_iff (s : State) : cmdReady s = true ↔ s.st ≠ .run := by simp [cmdReady]

theorem engineEnabled_iff (s : State) : engineEnabled s = true ↔ s.st = .run := by
  simp [engineEnabled]

/-- SUBMIT while the Engine runs (R110). -/
theorem submit_of_run {c : Command} {s : State} (h : s.st = .run) : submit c s = s := by
  simp [submit, cmdReady, h]

/-- SUBMIT accepted and well-formed (R112). -/
theorem submit_of_wellFormed {c : Command} {s : State} (h : s.st ≠ .run) (hn : c.n = 19) :
    submit c s = loadTransaction (Direction.ofCode c.dir) c.d s := by
  simp [submit, cmdReady, h, hn]

/-- SUBMIT accepted and malformed (R111). -/
theorem submit_of_malformed {c : Command} {s : State} (h : s.st ≠ .run) (hn : c.n ≠ 19) :
    submit c s = raiseShapeError s := by
  unfold submit
  rw [if_pos ((cmdReady_iff s).mpr h), if_neg hn]

@[simp] theorem submit_resetLine (c : Command) (s : State) :
    (submit c s).resetLine = s.resetLine := by
  unfold submit; split <;> (try split) <;> rfl

@[simp] theorem submit_host (c : Command) (s : State) : (submit c s).host = s.host := by
  unfold submit; split <;> (try split) <;> rfl

@[simp] theorem submit_replies (c : Command) (s : State) : (submit c s).replies = s.replies := by
  unfold submit; split <;> (try split) <;> rfl

@[simp] theorem submit_draws (c : Command) (s : State) : (submit c s).draws = s.draws := by
  unfold submit; split <;> (try split) <;> rfl

/-- A command while the Engine runs is turned away (R110). -/
theorem issueCommand_of_run {c : Command} {s : State} (h : s.st = .run) :
    issueCommand c s = s := by
  simp [issueCommand, cmdReady, h]

/-- A command whose SUBMIT is accepted (R117, R118). -/
theorem issueCommand_of_ready {c : Command} {s : State} (h : s.st ≠ .run) :
    issueCommand c s = pushHost .awaitResult (submit c s) := by
  simp [issueCommand, cmdReady, h]

@[simp] theorem issueCommand_buf (c : Command) (s : State) :
    (issueCommand c s).buf = (submit c s).buf := by
  unfold issueCommand submit; split <;> rfl

@[simp] theorem issueCommand_st (c : Command) (s : State) :
    (issueCommand c s).st = (submit c s).st := by
  unfold issueCommand submit; split <;> rfl

@[simp] theorem issueCommand_dir (c : Command) (s : State) :
    (issueCommand c s).dir = (submit c s).dir := by
  unfold issueCommand submit; split <;> rfl

@[simp] theorem issueCommand_seq (c : Command) (s : State) :
    (issueCommand c s).seq = (submit c s).seq := by
  unfold issueCommand submit; split <;> rfl

@[simp] theorem issueCommand_resetLine (c : Command) (s : State) :
    (issueCommand c s).resetLine = s.resetLine := by
  unfold issueCommand; split <;> simp

@[simp] theorem issueCommand_replies (c : Command) (s : State) :
    (issueCommand c s).replies = s.replies := by
  unfold issueCommand; split <;> simp

@[simp] theorem issueCommand_draws (c : Command) (s : State) :
    (issueCommand c s).draws = s.draws := by
  unfold issueCommand; split <;> simp

/-- Both commands are one operation on the fields they carry. -/
theorem exec_decodeCommand (c : Command) (s : State) :
    exec (decodeCommand c) s = .next (issueCommand c s) := by
  obtain ⟨dir, n, d⟩ := c
  have h : dir = 0 ∨ dir = 1 := by revert dir; decide
  rcases h with rfl | rfl <;> rfl

/-- RESULT leaves the engine alone (R115, R116). -/
theorem takeResult_eq (s : State) :
    takeResult s = match s.st with
      | .done => deliver (.data s.buf) s
      | .err => deliver .shapeError s
      | .idle => s
      | .run => s := by
  unfold takeResult readResult
  cases s.st <;> rfl

/-! ## The meanings, by the shared operation each applies -/

theorem exec_xswF (s : State) : exec .xswF s = .next (applyStage xorSwap s) := rfl

theorem exec_bxrF (s : State) : exec .bxrF s = .next (applyStage blockXor s) := rfl

theorem exec_brvF (s : State) : exec .brvF s = .next (applyStage blockReverse s) := rfl

theorem exec_irtF (s : State) : exec .irtF s = .next (applyStage indexedRotate s) := rfl

theorem exec_cadF (s : State) : exec .cadF s = .next (applyStage constantAdd s) := rfl

theorem exec_nswF (s : State) : exec .nswF s = .next (applyStage nibbleSwap s) := rfl

theorem exec_xswI (s : State) : exec .xswI s = .next (applyStage undoXorSwap s) := rfl

theorem exec_bxrI (s : State) : exec .bxrI s = .next (applyStage undoBlockXor s) := rfl

theorem exec_brvI (s : State) : exec .brvI s = .next (applyStage undoBlockReverse s) := rfl

theorem exec_irtI (s : State) : exec .irtI s = .next (applyStage undoIndexedRotate s) := rfl

theorem exec_cadI (s : State) : exec .cadI s = .next (applyStage undoConstantAdd s) := rfl

theorem exec_nswI (s : State) : exec .nswI s = .next (applyStage undoNibbleSwap s) := rfl

theorem exec_forward (n : Len) (d : Buffer) (s : State) :
    exec (.forward n d) s = .next (issueCommand { dir := 0, n := n, d := d } s) := rfl

theorem exec_invert (n : Len) (d : Buffer) (s : State) :
    exec (.invert n d) s = .next (issueCommand { dir := 1, n := n, d := d } s) := rfl

/-- Two next states that are one outcome are one state; cited where `cases` would compare the two
buffers by computing them. -/
theorem next_injective {s t : State}
    (h : (.next s : Host.Outcome State Fault Refusal) = .next t) : s = t :=
  Host.Outcome.next.inj h

/-- Two stages in a row are the stage of the composed function. -/
theorem applyStage_applyStage (f g : Buffer → Buffer) (s : State) :
    applyStage g (applyStage f s) = applyStage (fun b => g (f b)) s := rfl

/-- A stage function that gives the buffer back gives the state back. -/
theorem applyStage_of_fixed {f : Buffer → Buffer} {s : State} (h : f s.buf = s.buf) :
    applyStage f s = s := by
  simp [applyStage, h]

/-! ## The reset line -/

theorem resetRequested_cons (r : Bool) (rest : List Bool) (s : State)
    (h : s.resetLine = r :: rest) : resetRequested s = r := by
  simp [resetRequested, h]

theorem resetRequested_of_all_false {s : State} (h : ∀ r ∈ s.resetLine, r = false) :
    resetRequested s = false := by
  unfold resetRequested
  cases hl : s.resetLine with
  | nil => rfl
  | cons r rest => exact h r (by simp [hl])

/-- What a legal `SEQ` is (R12). -/
@[simp] theorem seqLegal_iff (s : State) : seqLegal s = true ↔ s.seq ≠ 7 := by simp [seqLegal]

end Sys2Proof.Machine
end

