-- ==== Sys2Proof/Laws/PerInstr.lean ====
section
/-! SUPPORT. Statements made for every instruction, one lemma per constructor. -/

namespace Sys2Proof.Laws.EncodingFormat

/-- A micro-operation is encoded in format `U`, by a code that is not reserved and in which bit 3 and
bits 2:0 name its direction and its stage (R50, R53); a command is encoded in format `CMD`, by fields
that are well-formed exactly when it is (R52, R55). -/
def Statement (i : Instr) : Prop :=
  (∃ stage dir, i = Instr.ofStage stage dir ∧ i.wellFormed = true ∧
    encode i = .u (dir.code ++ stage.number) ∧
    UCode.wellFormed (dir.code ++ stage.number) = true) ∨
  ∃ c, encode i = .cmd c ∧ decodeCommand c = i ∧ c.wellFormed = i.wellFormed

theorem xswF : Statement .xswF := .inl ⟨.xorSwap, .forward, rfl, rfl, rfl, rfl⟩

theorem bxrF : Statement .bxrF := .inl ⟨.blockXor, .forward, rfl, rfl, rfl, rfl⟩

theorem brvF : Statement .brvF := .inl ⟨.blockReverse, .forward, rfl, rfl, rfl, rfl⟩

theorem irtF : Statement .irtF := .inl ⟨.indexedRotate, .forward, rfl, rfl, rfl, rfl⟩

theorem cadF : Statement .cadF := .inl ⟨.constantAdd, .forward, rfl, rfl, rfl, rfl⟩

theorem nswF : Statement .nswF := .inl ⟨.nibbleSwap, .forward, rfl, rfl, rfl, rfl⟩

theorem xswI : Statement .xswI := .inl ⟨.xorSwap, .inverse, rfl, rfl, rfl, rfl⟩

theorem bxrI : Statement .bxrI := .inl ⟨.blockXor, .inverse, rfl, rfl, rfl, rfl⟩

theorem brvI : Statement .brvI := .inl ⟨.blockReverse, .inverse, rfl, rfl, rfl, rfl⟩

theorem irtI : Statement .irtI := .inl ⟨.indexedRotate, .inverse, rfl, rfl, rfl, rfl⟩

theorem cadI : Statement .cadI := .inl ⟨.constantAdd, .inverse, rfl, rfl, rfl, rfl⟩

theorem nswI : Statement .nswI := .inl ⟨.nibbleSwap, .inverse, rfl, rfl, rfl, rfl⟩

theorem forward (n : Len) (d : Buffer) : Statement (.forward n d) :=
  .inr ⟨{ dir := 0, n := n, d := d }, rfl, rfl, rfl⟩

theorem invert (n : Len) (d : Buffer) : Statement (.invert n d) :=
  .inr ⟨{ dir := 1, n := n, d := d }, rfl, rfl, rfl⟩

end Sys2Proof.Laws.EncodingFormat
end

