-- ==== Sys2Proof/Laws/Step.lean ====
section
/-! SUPPORT. What a step can do, said once: the step in each situation, and the inversion
`step_effect` from which invariants follow. -/

namespace Sys2Proof.Machine

/-- The stage function at index `k` of a micro-program row (R19). -/
def stageAt : Direction → Nat → Buffer → Buffer
  | .forward, 0 => xorSwap
  | .forward, 1 => blockXor
  | .forward, 2 => blockReverse
  | .forward, 3 => indexedRotate
  | .forward, 4 => constantAdd
  | .forward, _ => nibbleSwap
  | .inverse, 0 => undoNibbleSwap
  | .inverse, 1 => undoConstantAdd
  | .inverse, 2 => undoIndexedRotate
  | .inverse, 3 => undoBlockReverse
  | .inverse, 4 => undoBlockXor
  | .inverse, _ => undoXorSwap

theorem seq_cases {q : BitVec 3} (h : q.toNat ≤ 5) :
    q = 0 ∨ q = 1 ∨ q = 2 ∨ q = 3 ∨ q = 4 ∨ q = 5 := by
  revert q; decide

/-- The micro-operation at index `k` of a micro-program row (R19). -/
def microAt : Direction → Nat → Instr
  | .forward, 0 => .xswF
  | .forward, 1 => .bxrF
  | .forward, 2 => .brvF
  | .forward, 3 => .irtF
  | .forward, 4 => .cadF
  | .forward, _ => .nswF
  | .inverse, 0 => .nswI
  | .inverse, 1 => .cadI
  | .inverse, 2 => .irtI
  | .inverse, 3 => .brvI
  | .inverse, 4 => .bxrI
  | .inverse, _ => .xswI

/-- Every entry of the micro-program decodes to its micro-operation. -/
theorem fetch_decodes (dir : Direction) (q : BitVec 3) (h : q.toNat ≤ 5) :
    ((tableUROM dir)[q.toNat]?).map decodeU = some (.instr (microAt dir q.toNat)) := by
  revert q; cases dir <;> decide

/-- The micro-operation at an index applies the stage function at that index. -/
theorem exec_microAt (dir : Direction) (k : Nat) (s : State) :
    exec (microAt dir k) s = .next (applyStage (stageAt dir k) s) := by
  unfold microAt stageAt
  split <;> rfl

/-- The engine step inside the row (R113). -/
theorem engineStep_eq {s : State} (h : s.seq.toNat ≤ 5) :
    engineStep s = .next (advance (applyStage (stageAt s.dir s.seq.toNat) s)) := by
  obtain ⟨code, hf, hd⟩ := Option.map_eq_some_iff.mp (fetch_decodes s.dir s.seq h)
  have hf' : fetchCode s = some code := hf
  simp [engineStep, hf', execCode, hd, exec_microAt]

/-- The engine step outside the row is refused. -/
theorem engineStep_out {s : State} (h : ¬ s.seq.toNat ≤ 5) :
    engineStep s = .refused (.sequencerOutOfRange s.seq) := by
  have hf : fetchCode s = none := by
    have : 6 ≤ s.seq.toNat := by omega
    simp [fetchCode, this]
  simp [engineStep, hf]

/-- A step from a state with a legal `SEQ` (R12). -/
theorem step_of_legal {s : State} (hq : s.seq ≠ 7) : step s = legalStep s := by
  exact if_pos ((seqLegal_iff s).mpr hq)

/-- A state with `SEQ = 7` is refused. -/
theorem step_of_seven {s : State} (hq : s.seq = 7) :
    step s = .refused (.sequencerOutOfRange 7) := by
  rw [← hq]
  exact if_neg fun h => (seqLegal_iff s).mp h hq

/-- Only a state with a legal `SEQ` has a next state. -/
theorem seq_ne_seven_of_step {s t : State} (h : step s = .next t) : s.seq ≠ 7 := by
  intro hq
  rw [step_of_seven hq] at h
  cases h

theorem seq_ne_seven_of_le {q : BitVec 3} (h : q.toNat ≤ 5) : q ≠ 7 := by
  rintro rfl
  exact absurd h (by decide)

/-- A step in which RESET is requested (R134, R150). -/
theorem step_of_reset {s : State} (hq : s.seq ≠ 7) (h : resetRequested s = true) :
    step s = .next (resetEvent (popHost (popResetLine s))) := by
  simp [step_of_legal hq, legalStep, h]

theorem step_of_no_reset {s : State} (hq : s.seq ≠ 7) (h : resetRequested s = false) :
    step s = operate (popResetLine s) := by
  simp [step_of_legal hq, legalStep, h]

/-- A step that offers a SUBMIT as such. -/
theorem step_of_submit {s : State} {c : Command} (hq : s.seq ≠ 7) (h : resetRequested s = false)
    (ho : s.host.head? = some (.submit c)) :
    step s = .next (submit c (popHost (popResetLine s))) := by
  obtain ⟨rest, hl⟩ : ∃ rest, s.host = .submit c :: rest := by
    cases hs : s.host <;> simp_all
  simp [step_of_no_reset hq h, operate, hl, hostTurn]

/-- A step that issues a command. -/
theorem step_of_command {s : State} {c : Command} (hq : s.seq ≠ 7) (h : resetRequested s = false)
    (ho : s.host.head? = some (.command c)) :
    step s = .next (issueCommand c (popHost (popResetLine s))) := by
  obtain ⟨rest, hl⟩ : ∃ rest, s.host = .command c :: rest := by
    cases hs : s.host <;> simp_all
  simp [step_of_no_reset hq h, operate, hl, hostTurn, exec_decodeCommand]

/-- A step with a software call: the adapter reports, or a command is issued. -/
theorem step_of_call {s : State} {dir : Direction} {bytes : List Byte} (hq : s.seq ≠ 7)
    (h : resetRequested s = false) (ho : s.host.head? = some (.call dir bytes)) :
    step s = match adapt dir bytes (freeBuffer s.draws) with
      | none => .next (deliver .shapeError (popHost (popResetLine s)))
      | some c =>
        .next (issueCommand c { popHost (popResetLine s) with draws := s.draws + 1 }) := by
  obtain ⟨rest, hl⟩ : ∃ rest, s.host = .call dir bytes :: rest := by
    cases hs : s.host <;> simp_all
  simp only [step_of_no_reset hq h, operate, popResetLine_host, hl, hostTurn, softwareCall,
    popHost_draws, popResetLine_draws]
  split <;> simp [*, exec_decodeCommand]

/-- A step that performs RESULT. -/
theorem step_of_result {s : State} (hq : s.seq ≠ 7) (h : resetRequested s = false)
    (ho : s.host.head? = some .result) :
    step s = .next (takeResult (popHost (popResetLine s))) := by
  obtain ⟨rest, hl⟩ : ∃ rest, s.host = .result :: rest := by
    cases hs : s.host <;> simp_all
  simp [step_of_no_reset hq h, operate, hl, hostTurn]

/-- A step in which the Host's wait is over. -/
theorem step_of_wait_over {s : State} (hq : s.seq ≠ 7) (h : resetRequested s = false)
    (ho : s.host.head? = some .awaitResult) (hr : s.st ≠ .run) :
    step s = .next (takeResult (popHost (popResetLine s))) := by
  obtain ⟨rest, hl⟩ : ∃ rest, s.host = .awaitResult :: rest := by
    cases hs : s.host <;> simp_all
  simp [step_of_no_reset hq h, operate, hl, hostTurn, engineEnabled, hr]

/-- A step that the Host leaves to the Engine while it runs. -/
theorem step_of_turn {s : State} (hq : s.seq ≠ 7) (h : LeavesTurn s) (hr : s.st = .run) :
    step s = engineStep (turnState s) := by
  obtain ⟨h0, h⟩ := h
  rw [step_of_no_reset hq h0]
  obtain ⟨buf, st, dir, seq, resetLine, host, replies, draws⟩ := s
  cases hr
  match host, h with
  | [], _ => rfl
  | .idle :: rest, _ => rfl
  | .awaitResult :: rest, _ => rfl

/-- A step that the Host leaves to the Engine while it does not run: the machine waits. -/
theorem step_of_idle_turn {s : State} (hq : s.seq ≠ 7) (h : resetRequested s = false)
    (ho : s.host.head? = none ∨ s.host.head? = some .idle) (hr : s.st ≠ .run) :
    step s = .next (popHost (popResetLine s)) := by
  rw [step_of_no_reset hq h]
  obtain ⟨buf, st, dir, seq, resetLine, host, replies, draws⟩ := s
  have he : (st == Status.run) = false := by simpa using hr
  match host, ho with
  | [], _ => simp [operate, engineTurn, engineEnabled, popResetLine, popHost, he]
  | .idle :: rest, _ =>
    simp [operate, hostTurn, engineTurn, engineEnabled, popResetLine, popHost, he]

@[simp] theorem turnState_buf (s : State) : (turnState s).buf = s.buf := by
  unfold turnState; split <;> rfl
@[simp] theorem turnState_st (s : State) : (turnState s).st = s.st := by
  unfold turnState; split <;> rfl
@[simp] theorem turnState_dir (s : State) : (turnState s).dir = s.dir := by
  unfold turnState; split <;> rfl
@[simp] theorem turnState_seq (s : State) : (turnState s).seq = s.seq := by
  unfold turnState; split <;> rfl
@[simp] theorem turnState_resetLine (s : State) :
    (turnState s).resetLine = s.resetLine.tail := by
  unfold turnState; split <;> rfl
@[simp] theorem turnState_replies (s : State) : (turnState s).replies = s.replies := by
  unfold turnState; split <;> rfl
@[simp] theorem turnState_draws (s : State) : (turnState s).draws = s.draws := by
  unfold turnState; split <;> rfl

/-- The five things that a step from `s` to `t` can be. -/
inductive StepEffect (s t : State) : Prop
  /-- RESET took effect. -/
  | reset (hr : resetRequested s = true) (ht : t = resetEvent (popHost (popResetLine s)))
  /-- A well-formed SUBMIT was accepted. -/
  | load (c : Command) (ha : Accepts s c) (hn : c.n = 19) (hb : t.buf = c.d)
      (hd : t.dir = Direction.ofCode c.dir) (hq : t.seq = 0) (hs : t.st = .run)
      (hp : t.replies = s.replies)
  /-- A malformed SUBMIT was accepted. -/
  | shape (c : Command) (ha : Accepts s c) (hn : c.n ≠ 19) (hb : t.buf = s.buf)
      (hd : t.dir = s.dir) (hq : t.seq = s.seq) (hs : t.st = .err) (hp : t.replies = s.replies)
  /-- The Engine took its step. -/
  | engine (hl : LeavesTurn s) (hs : s.st = .run) (hq : s.seq.toNat ≤ 5)
      (ht : t = advance (applyStage (stageAt s.dir s.seq.toNat) (turnState s)))
  /-- The engine's state did not change. -/
  | kept (hr : resetRequested s = false) (hk : EngineKept s t)
      (hp : t.replies = s.replies ∨ t.replies = .shapeError :: s.replies ∨
        (s.st = .done ∧ t.replies = .data s.buf :: s.replies))

/-- Every step that gives a next state is one of the five. -/
theorem step_effect {s t : State} (h : step s = .next t) : StepEffect s t := by
  have hq7 := seq_ne_seven_of_step h
  rcases hr : resetRequested s with _ | _
  swap
  · rw [step_of_reset hq7 hr] at h
    cases h
    exact .reset hr rfl
  have keep : ∀ u, u = popHost (popResetLine s) → EngineKept s u := by
    rintro u rfl; exact ⟨rfl, rfl, rfl, rfl⟩
  have took : ∀ u, u = takeResult (popHost (popResetLine s)) → EngineKept s u ∧
      (u.replies = s.replies ∨ u.replies = .shapeError :: s.replies ∨
        (s.st = .done ∧ u.replies = .data s.buf :: s.replies)) := by
    rintro u rfl
    rw [takeResult_eq]
    rcases hst : s.st <;> simp [hst, EngineKept]
  have cmd : ∀ c v u, v.buf = s.buf → v.st = s.st → v.dir = s.dir → v.seq = s.seq →
      offered s = some c → u.buf = (submit c v).buf → u.st = (submit c v).st →
      u.dir = (submit c v).dir → u.seq = (submit c v).seq → u.replies = s.replies →
      StepEffect s u := by
    intro c v u vb vs vd vq ho hb hs hd hq hp
    by_cases hrun : s.st = .run
    · rw [submit_of_run (vs.trans hrun)] at hb hs hd hq
      exact .kept hr ⟨hb.trans vb, hs.trans vs, hd.trans vd, hq.trans vq⟩ (.inl hp)
    · by_cases hn : c.n = 19
      · rw [submit_of_wellFormed (vs ▸ hrun) hn] at hb hs hd hq
        exact .load c ⟨hr, hrun, ho, hq7⟩ hn hb hd hq hs hp
      · rw [submit_of_malformed (vs ▸ hrun) hn] at hb hs hd hq
        exact .shape c ⟨hr, hrun, ho, hq7⟩ hn (hb.trans vb) (hd.trans vd) (hq.trans vq) hs hp
  have turn : LeavesTurn s → s.st = .run → StepEffect s t := by
    intro hl hrun
    rw [step_of_turn hq7 hl hrun] at h
    by_cases hq : (turnState s).seq.toNat ≤ 5
    · rw [engineStep_eq hq] at h
      cases h
      exact .engine hl hrun (by simpa using hq) (by simp)
    · rw [engineStep_out hq] at h
      cases h
  rcases ho : s.host.head? with _ | op
  · by_cases hrun : s.st = .run
    · exact turn ⟨hr, .inl ho⟩ hrun
    · rw [step_of_idle_turn hq7 hr (.inl ho) hrun] at h
      cases h
      exact .kept hr (keep _ rfl) (.inl rfl)
  · cases op with
    | idle =>
      by_cases hrun : s.st = .run
      · exact turn ⟨hr, .inr (.inl ho)⟩ hrun
      · rw [step_of_idle_turn hq7 hr (.inr ho) hrun] at h
        cases h
        exact .kept hr (keep _ rfl) (.inl rfl)
    | awaitResult =>
      by_cases hrun : s.st = .run
      · exact turn ⟨hr, .inr (.inr ho)⟩ hrun
      · rw [step_of_wait_over hq7 hr ho hrun] at h
        cases h
        exact .kept hr (took _ rfl).1 (took _ rfl).2
    | result =>
      rw [step_of_result hq7 hr ho] at h
      cases h
      exact .kept hr (took _ rfl).1 (took _ rfl).2
    | submit c =>
      rw [step_of_submit hq7 hr ho] at h
      cases h
      refine cmd c (popHost (popResetLine s)) _ rfl rfl rfl rfl ?_ rfl rfl rfl rfl (by simp)
      simp [offered, ho]
    | command c =>
      rw [step_of_command hq7 hr ho] at h
      cases h
      refine cmd c (popHost (popResetLine s)) _ rfl rfl rfl rfl ?_ (by simp) (by simp) (by simp)
        (by simp) (by simp)
      simp [offered, ho]
    | call dir bytes =>
      rw [step_of_call hq7 hr ho] at h
      rcases ha : adapt dir bytes (freeBuffer s.draws) with _ | c <;> rw [ha] at h <;> cases h
      · exact .kept hr ⟨rfl, rfl, rfl, rfl⟩ (.inr (.inl rfl))
      · refine cmd c { popHost (popResetLine s) with draws := s.draws + 1 } _ rfl rfl rfl rfl ?_
          (by simp) (by simp) (by simp) (by simp) (by simp)
        simp [offered, ho, ha]

end Sys2Proof.Machine
end

