-- ==== Sys2Proof/Laws/Runs.lean ====
section
/-! SUPPORT. Runs of several steps, and the run of a transaction: what the Engine's first `k` turns of
a loaded transaction give, whatever waiting the Host does meanwhile. -/

namespace Sys2Proof.Machine

/-- A run goes on from where a shorter one arrived. -/
theorem run_add_of_next {a b : Nat} {s t : State} (h : run a s = .next t) :
    run (a + b) s = run b t := by
  induction a generalizing s with
  | zero =>
    cases h
    rw [Nat.zero_add]
  | succ a ih =>
    rw [show a + 1 + b = (a + b) + 1 by omega]
    simp only [run] at h ⊢
    cases hs : step s with
    | next u => rw [hs] at h; exact ih h
    | fault r => rw [hs] at h; cases h
    | refused r => rw [hs] at h; cases h

theorem run_one (s : State) : run 1 s = step s := by
  simp only [run]
  cases step s <;> rfl

/-- The Host's list after a turn that it leaves to the Engine: a wait for a result stays. -/
def hostAfterTurn : List HostOp → List HostOp
  | .awaitResult :: rest => .awaitResult :: rest
  | ops => ops.tail

theorem turnState_host (s : State) : (turnState s).host = hostAfterTurn s.host := by
  unfold turnState hostAfterTurn
  split <;> simp_all

/-- The Host leaves the turn: it has nothing to do, or it waits. -/
def HostLeavesTurn (ops : List HostOp) : Prop :=
  ops.head? = none ∨ ops.head? = some .idle ∨ ops.head? = some .awaitResult

/-- The buffer after the first `k` micro-operations of a row. -/
def bufAfter (dir : Direction) : Nat → Buffer → Buffer
  | 0, b => b
  | k + 1, b => stageAt dir k (bufAfter dir k b)

/-- All six micro-operations of a row are the function of that row (R77, R96). -/
theorem bufAfter_six (dir : Direction) (b : Buffer) : bufAfter dir 6 b = sequenceOf dir b := by
  cases dir <;> rfl

/-- The state that `k` turns of the Engine lead to from a freshly loaded transaction (R113, R114). -/
def afterTurns (s : State) (k : Nat) : State :=
  { s with
    buf := bufAfter s.dir k s.buf
    seq := BitVec.ofNat 3 k
    st := if k = 6 then .done else .run
    resetLine := s.resetLine.drop k
    host := hostAfterTurn^[k] s.host }

theorem noReset_drop {s : State} (h : NoReset s) (k : Nat) :
    ∀ r ∈ s.resetLine.drop k, r = false :=
  fun r hr => h r (List.mem_of_mem_drop hr)

theorem noReset_tail {s : State} (h : NoReset s) : ∀ r ∈ s.resetLine.tail, r = false :=
  fun r hr => h r (List.mem_of_mem_tail hr)

theorem ofNat_succ_eq_six {k : Nat} (h : k ≤ 5) : BitVec.ofNat 3 (k + 1) = 6 ↔ k + 1 = 6 := by
  have : k = 0 ∨ k = 1 ∨ k = 2 ∨ k = 3 ∨ k = 4 ∨ k = 5 := by omega
  rcases this with rfl | rfl | rfl | rfl | rfl | rfl <;> decide

/-- One turn more (R113). -/
theorem turn_afterTurns {s : State} {k : Nat} (hk : k ≤ 5) (hn : NoReset s)
    (hl : HostLeavesTurn (hostAfterTurn^[k] s.host)) :
    step (afterTurns s k) = .next (afterTurns s (k + 1)) := by
  have hL : LeavesTurn (afterTurns s k) :=
    ⟨resetRequested_of_all_false (noReset_drop hn k), hl⟩
  have hR : (afterTurns s k).st = .run := by simp [afterTurns]; omega
  have hq : ((afterTurns s k).seq).toNat = k := by simp [afterTurns]; omega
  have hsucc : (afterTurns s k).seq + 1 = BitVec.ofNat 3 (k + 1) := by
    simp [afterTurns, BitVec.ofNat_add]
  rw [step_of_turn (seq_ne_seven_of_le (by omega)) hL hR, engineStep_eq (by simp [hq]; omega)]
  have hst : (advance (applyStage (stageAt (turnState (afterTurns s k)).dir
      (turnState (afterTurns s k)).seq.toNat) (turnState (afterTurns s k)))).st =
      (afterTurns s (k + 1)).st := by
    rw [advance_st, applyStage_seq, applyStage_st, turnState_seq, turnState_st, hsucc, hR]
    simp only [ofNat_succ_eq_six hk]
    rfl
  have hhost : (turnState (afterTurns s k)).host = (afterTurns s (k + 1)).host := by
    rw [turnState_host]
    simp only [afterTurns, Function.iterate_succ_apply']
  have hseq : (advance (applyStage (stageAt (turnState (afterTurns s k)).dir
      (turnState (afterTurns s k)).seq.toNat) (turnState (afterTurns s k)))).seq =
      (afterTurns s (k + 1)).seq := by
    rw [advance_seq, applyStage_seq, turnState_seq, hsucc]
    rfl
  have hbuf : (advance (applyStage (stageAt (turnState (afterTurns s k)).dir
      (turnState (afterTurns s k)).seq.toNat) (turnState (afterTurns s k)))).buf =
      (afterTurns s (k + 1)).buf := by
    rw [advance_buf, applyStage_buf, turnState_buf, turnState_dir, turnState_seq, hq]
    rfl
  have hreset : (turnState (afterTurns s k)).resetLine = (afterTurns s (k + 1)).resetLine := by
    rw [turnState_resetLine]
    simp [afterTurns]
  have eta : ∀ a b : State, a.buf = b.buf → a.st = b.st → a.dir = b.dir → a.seq = b.seq →
      a.resetLine = b.resetLine → a.host = b.host → a.replies = b.replies →
      a.draws = b.draws → a = b := by
    rintro ⟨⟩ ⟨⟩; simp; intros; simp_all
  refine congrArg _ (eta _ _ hbuf hst ?_ hseq hreset hhost ?_ ?_)
  · simp [afterTurns]
  · simp [afterTurns]
  · simp [afterTurns]

/-- The first `k` turns of a loaded transaction (R113, R114, R119). -/
theorem run_turns {s : State} (hs : s.st = .run) (hq : s.seq = 0) (hn : NoReset s) (k : Nat)
    (hk : k ≤ 6) (hl : ∀ i < k, HostLeavesTurn (hostAfterTurn^[i] s.host)) :
    run k s = .next (afterTurns s k) := by
  induction k with
  | zero =>
    obtain ⟨buf, st, dir, seq, resetLine, host, replies, draws⟩ := s
    cases hs
    cases hq
    rfl
  | succ k ih =>
    rw [run_add_of_next (ih (by omega) fun i hi => hl i (by omega)), run_one,
      turn_afterTurns (by omega) hn (hl k (by omega))]

/-- A Host that waits for the result keeps waiting. -/
theorem hostAfterTurn_await (k : Nat) (rest : List HostOp) :
    hostAfterTurn^[k] (.awaitResult :: rest) = .awaitResult :: rest := by
  induction k with
  | zero => rfl
  | succ k ih => rw [Function.iterate_succ_apply', ih]; rfl

/-- A Host with nothing to do stays so. -/
theorem hostAfterTurn_nil (k : Nat) : hostAfterTurn^[k] ([] : List HostOp) = [] := by
  induction k with
  | zero => rfl
  | succ k ih => rw [Function.iterate_succ_apply', ih]; rfl

/-- A Host that does nothing for some steps has as many fewer of them left. -/
theorem hostAfterTurn_idle (k n : Nat) (rest : List HostOp) :
    hostAfterTurn^[k] (List.replicate (k + n) .idle ++ rest) =
      List.replicate n .idle ++ rest := by
  induction k with
  | zero => simp
  | succ k ih =>
    rw [Function.iterate_succ_apply, show k + 1 + n = (k + n) + 1 by omega,
      List.replicate_succ]
    exact ih

end Sys2Proof.Machine
end

