-- ==== Sys2Proof/Laws/Stages.lean ====
section
/-! SUPPORT. The byte primitives in closed form and what each stage puts into each lane. -/

namespace Sys2Proof.Machine

/-! ## Byte primitives -/

theorem add8_eq (a c : Byte) : add8 a c = a + c := by
  apply BitVec.eq_of_toNat_eq
  simp [add8, BitVec.toNat_add]

theorem sub8_eq (a c : Byte) : sub8 a c = a - c := by
  apply BitVec.eq_of_toNat_eq
  have ha := a.isLt
  have hc := c.isLt
  simp only [sub8, BitVec.toNat_ofInt, BitVec.toNat_sub]
  omega

theorem add8_toNat (a c : Byte) : (add8 a c).toNat = (a.toNat + c.toNat) % 256 := by
  rw [add8_eq, BitVec.toNat_add]

theorem sub8_toNat (a c : Byte) : (sub8 a c).toNat = (a.toNat + 256 - c.toNat) % 256 := by
  have hc := c.isLt
  rw [sub8_eq, BitVec.toNat_sub]
  omega

@[simp] theorem sub8_add8 (a c : Byte) : sub8 (add8 a c) c = a := by simp [add8_eq, sub8_eq]

@[simp] theorem add8_sub8 (a c : Byte) : add8 (sub8 a c) c = a := by simp [add8_eq, sub8_eq]

@[simp] theorem xor8_xor8 (a k : Byte) : xor8 (xor8 a k) k = a := by
  simp [xor8]

/-- All 2048 pairs of a byte and a shift, by the kernel. -/
theorem ror8_rol8_all : ∀ (b : Byte) (s : BitVec 3), ror8 (rol8 b s) s = b := by decide

/-- All 2048 pairs of a byte and a shift, by the kernel. -/
theorem rol8_ror8_all : ∀ (b : Byte) (s : BitVec 3), rol8 (ror8 b s) s = b := by decide

@[simp] theorem ror8_rol8 (b : Byte) (s : BitVec 3) : ror8 (rol8 b s) s = b := ror8_rol8_all b s

@[simp] theorem rol8_ror8 (b : Byte) (s : BitVec 3) : rol8 (ror8 b s) s = b := rol8_ror8_all b s

/-- A nibble swap is a rotation by four. -/
theorem rol8_four : ∀ b : Byte, rol8 b 4 = swap4 b := by decide

theorem swap4_swap4_all : ∀ b : Byte, swap4 (swap4 b) = b := by decide

@[simp] theorem swap4_swap4 (b : Byte) : swap4 (swap4 b) = b := swap4_swap4_all b

@[simp] theorem Rotation.opposite_apply_apply (r : Rotation) (b : Byte) (s : BitVec 3) :
    r.opposite.apply (r.apply b s) s = b := by
  cases r <;> simp [Rotation.apply, Rotation.opposite]

@[simp] theorem Rotation.apply_opposite_apply (r : Rotation) (b : Byte) (s : BitVec 3) :
    r.apply (r.opposite.apply b s) s = b := by
  cases r <;> simp [Rotation.apply, Rotation.opposite]

/-! ## Lanes -/

@[simp] theorem mapLanes_getElem (f : Fin 19 → Byte → Byte) (b : Buffer) (i : Nat) (h : i < 19) :
    (mapLanes f b)[i] = f ⟨i, h⟩ b[i] := by
  simp [mapLanes]

theorem mapBlock_getElem_block (f : Fin 16 → Byte) (b : Buffer) (i : Nat) (h : i < 16) :
    (mapBlock f b)[i] = f ⟨i, h⟩ := by
  simp [mapBlock, h]

theorem mapBlock_getElem_tail (f : Fin 16 → Byte) (b : Buffer) (i : Nat) (h : i < 19)
    (h' : 16 ≤ i) : (mapBlock f b)[i] = b[i] := by
  simp [mapBlock, Nat.not_lt.mpr h']

/-! ## Stages, lane by lane -/

theorem xorSwap_getElem_block (b : Buffer) (j : Nat) (h : j < 16) :
    (xorSwap b)[j] = b[j + 3] := by
  simp [xorSwap, h]

theorem xorSwap_getElem_tail (b : Buffer) (p : Nat) (h : p < 3) :
    (xorSwap b)[18 - p] = xor8 b[p] tableX[p] := by
  have h1 : ¬ 18 - p < 16 := by omega
  have h2 : 18 - (18 - p) = p := by omega
  simp [xorSwap, h1, h2]

theorem undoXorSwap_getElem_low (b : Buffer) (p : Nat) (h : p < 3) :
    (undoXorSwap b)[p] = xor8 b[18 - p] tableX[p] := by
  simp [undoXorSwap, h]

theorem undoXorSwap_getElem_high (b : Buffer) (j : Nat) (h : j < 16) :
    (undoXorSwap b)[j + 3] = b[j] := by
  simp [undoXorSwap]

theorem blockXor_getElem (b : Buffer) (j : Nat) (h : j < 16) :
    (blockXor b)[j] = xor8 b[j] tableK[j] := by
  simp [blockXor, mapBlock_getElem_block, h]

theorem blockXor_getElem_tail (b : Buffer) (i : Nat) (h : i < 19) (h' : 16 ≤ i) :
    (blockXor b)[i] = b[i] := mapBlock_getElem_tail _ b i h h'

theorem blockReverse_getElem (b : Buffer) (j : Nat) (h : j < 16) :
    (blockReverse b)[j] = b[15 - j] := by
  simp [blockReverse, mapBlock_getElem_block, h]

theorem blockReverse_getElem_tail (b : Buffer) (i : Nat) (h : i < 19) (h' : 16 ≤ i) :
    (blockReverse b)[i] = b[i] := mapBlock_getElem_tail _ b i h h'

theorem indexedRotate_getElem (b : Buffer) (i : Nat) (h : i < 19) :
    (indexedRotate b)[i] = (tableRD i).apply b[i] tableSH[i] := by
  simp [indexedRotate]

theorem undoIndexedRotate_getElem (b : Buffer) (i : Nat) (h : i < 19) :
    (undoIndexedRotate b)[i] = (tableRD i).opposite.apply b[i] tableSH[i] := by
  simp [undoIndexedRotate]

theorem constantAdd_getElem (b : Buffer) (i : Nat) (h : i < 19) :
    (constantAdd b)[i] = add8 b[i] tableA[i] := by
  simp [constantAdd]

theorem undoConstantAdd_getElem (b : Buffer) (i : Nat) (h : i < 19) :
    (undoConstantAdd b)[i] = sub8 b[i] tableA[i] := by
  simp [undoConstantAdd]

/-- Both loops of the sixth stage compute the nibble swap. -/
theorem nibbleSwap_getElem (b : Buffer) (i : Nat) (h : i < 19) :
    (nibbleSwap b)[i] = swap4 b[i] := by
  simp only [nibbleSwap, mapLanes_getElem]
  split
  · rfl
  · exact rol8_four b[i]

theorem undoNibbleSwap_getElem (b : Buffer) (i : Nat) (h : i < 19) :
    (undoNibbleSwap b)[i] = swap4 b[i] := by
  simp [undoNibbleSwap]

end Sys2Proof.Machine
end

