-- ==== Sys2Proof/Tests/Slice0.lean ====
section
/-! SUPPORT. The model's own tests. Every expected value is written out from the specification: the
opcode map of R51, the tables of R15 to R19, and the vectors of the test-vector file, whose section
stands at each. The witnesses at the end meet the hypotheses of the statements. -/

namespace Sys2Proof.Tests

open Sys2Proof Sys2Proof.Machine

/-- The ramp `R` of the test-vector file, section 2. -/
def ramp : Buffer :=
  #v[0x00, 0x01, 0x02, 0x03, 0x04, 0x05, 0x06, 0x07, 0x08, 0x09,
      0x0a, 0x0b, 0x0c, 0x0d, 0x0e, 0x0f, 0x10, 0x11, 0x12]

/-- The nibble pattern `P` of the test-vector file, section 2. -/
def pattern : Buffer :=
  #v[0x0f, 0x1e, 0x2d, 0x3c, 0x4b, 0x5a, 0x69, 0x78, 0x87, 0x96,
      0xa5, 0xb4, 0xc3, 0xd2, 0xe1, 0xf0, 0x0f, 0x1e, 0x2d]

/-- The zero buffer `Z`. -/
def zeros : Buffer := Vector.replicate 19 0

/-- A small state: the ramp in the buffer, no reset requested. -/
def small (st : Status) (dir : Direction) (seq : BitVec 3) (host : List HostOp) : State :=
  { State.reset with buf := ramp, st := st, dir := dir, seq := seq, host := host }

/-- The state that an outcome gives, if it gives one. -/
def nextOf (o : Host.Outcome State Fault Refusal) : Option State :=
  match o with
  | .next s => some s
  | .fault _ => none
  | .refused _ => none

/-- The buffer that an instruction leaves from a given one. -/
def bufAfterExec (i : Instr) (b : Buffer) : Option Buffer :=
  (nextOf (exec i { State.reset with buf := b })).map State.buf

/-- A SUBMIT of the ramp. -/
def cmd (dir : BitVec 1) (n : Len) : Command := { dir := dir, n := n, d := ramp }

/-! ## Well-formedness: an ill-formed term for each check -/

theorem test_malformed_forward_refused : (Instr.forward 18 ramp).wellFormed = false := by decide

theorem test_malformed_invert_refused : (Instr.invert 20 ramp).wellFormed = false := by decide

theorem test_malformed_command_refused : (cmd 1 0).wellFormed = false := by decide

theorem test_reserved_code_refused : UCode.wellFormed 0b0111 = false := by decide

theorem test_wellFormed_accepts : (Instr.invert 19 ramp).wellFormed = true ∧
    (cmd 0 19).wellFormed = true ∧ UCode.wellFormed 0b1110 = true := by decide

/-! ## Decoding: each code bit by bit from R51, and the fields of R52 -/

theorem test_decode_xswF : decode (.u 0b0001) = .instr .xswF := by decide

theorem test_decode_bxrF : decode (.u 0b0010) = .instr .bxrF := by decide

theorem test_decode_brvF : decode (.u 0b0011) = .instr .brvF := by decide

theorem test_decode_irtF : decode (.u 0b0100) = .instr .irtF := by decide

theorem test_decode_cadF : decode (.u 0b0101) = .instr .cadF := by decide

theorem test_decode_nswF : decode (.u 0b0110) = .instr .nswF := by decide

theorem test_decode_xswI : decode (.u 0b1001) = .instr .xswI := by decide

theorem test_decode_bxrI : decode (.u 0b1010) = .instr .bxrI := by decide

theorem test_decode_brvI : decode (.u 0b1011) = .instr .brvI := by decide

theorem test_decode_irtI : decode (.u 0b1100) = .instr .irtI := by decide

theorem test_decode_cadI : decode (.u 0b1101) = .instr .cadI := by decide

theorem test_decode_nswI : decode (.u 0b1110) = .instr .nswI := by decide

theorem test_decode_forward : decode (.cmd (cmd 0 19)) = .instr (.forward 19 ramp) := by decide

theorem test_decode_invert : decode (.cmd (cmd 1 18)) = .instr (.invert 18 ramp) := by decide

theorem test_decode_reserved : ∀ c ∈ [(0b0000 : UCode), 0b0111, 0b1000, 0b1111],
    decode (.u c) = .reserved c := by decide

/-- The rows of the opcode table at their own widths. -/
theorem test_table_words : decodeTableWord 4 9 = some .xswI ∧ decodeTableWord 4 0 = none ∧
    decodeTableWord 1 0 = some (.forward 19 zeros) ∧
    decodeTableWord 1 1 = some (.invert 19 zeros) := by decide

/-- The rows padded to a byte, where `1` is both XSW.F and INVERT (log entry 5). -/
theorem test_table_bytes : decodeTableWord 8 1 = some .xswF ∧ decodeTableWord 8 14 = some .nswI ∧
    decodeTableWord 8 0 = some (.forward 19 zeros) ∧ decodeTableWord 8 7 = none ∧
    decodeTableWord 8 16 = none := by decide

/-- A placed code is the one that the next step runs. -/
theorem test_fetch_word_runs : (nextOf (step (State.reset.withFetchWord 4 13))).map
    (fun s => (s.buf[0], s.seq, s.st)) = some (0xcd, 2, .run) := by decide

/-! ## Micro-operations: `R` and `P`, one stage each -/

/-- XSW.F of `R`, section 2.1. -/
theorem test_xswF_ramp : bufAfterExec .xswF ramp = some
    #v[0x03, 0x04, 0x05, 0x06, 0x07, 0x08, 0x09, 0x0a, 0x0b, 0x0c,
      0x0d, 0x0e, 0x0f, 0x10, 0x11, 0x12, 0x72, 0x58, 0x42] := by decide

/-- XSW.F of `P`, section 2.1. -/
theorem test_xswF_pattern : bufAfterExec .xswF pattern = some
    #v[0x3c, 0x4b, 0x5a, 0x69, 0x78, 0x87, 0x96, 0xa5, 0xb4, 0xc3,
      0xd2, 0xe1, 0xf0, 0x0f, 0x1e, 0x2d, 0x5d, 0x47, 0x4d] := by decide

/-- XSW.I of `R`, section 2.1. -/
theorem test_xswI_ramp : bufAfterExec .xswI ramp = some
    #v[0x50, 0x48, 0x60, 0x00, 0x01, 0x02, 0x03, 0x04, 0x05, 0x06,
      0x07, 0x08, 0x09, 0x0a, 0x0b, 0x0c, 0x0d, 0x0e, 0x0f] := by decide

/-- XSW.I of `P`, section 2.1. -/
theorem test_xswI_pattern : bufAfterExec .xswI pattern = some
    #v[0x6f, 0x47, 0x7f, 0x0f, 0x1e, 0x2d, 0x3c, 0x4b, 0x5a, 0x69,
      0x78, 0x87, 0x96, 0xa5, 0xb4, 0xc3, 0xd2, 0xe1, 0xf0] := by decide

/-- BXR.F of `R`, section 2.2. -/
theorem test_bxrF_ramp : bufAfterExec .bxrF ramp = some
    #v[0x87, 0x9f, 0xb7, 0xcf, 0xe7, 0xff, 0x17, 0x2f, 0x37, 0x5f,
      0x67, 0x8f, 0x97, 0xbf, 0xc7, 0xef, 0x10, 0x11, 0x12] := by decide

/-- BXR.F of `P`, section 2.2. -/
theorem test_bxrF_pattern : bufAfterExec .bxrF pattern = some
    #v[0x88, 0x80, 0x98, 0xf0, 0xa8, 0xa0, 0x78, 0x50, 0xb8, 0xc0,
      0xc8, 0x30, 0x58, 0x60, 0x28, 0x10, 0x0f, 0x1e, 0x2d] := by decide

/-- BXR.I of `R`, section 2.2. -/
theorem test_bxrI_ramp : bufAfterExec .bxrI ramp = some
    #v[0x87, 0x9f, 0xb7, 0xcf, 0xe7, 0xff, 0x17, 0x2f, 0x37, 0x5f,
      0x67, 0x8f, 0x97, 0xbf, 0xc7, 0xef, 0x10, 0x11, 0x12] := by decide

/-- BXR.I of `P`, section 2.2. -/
theorem test_bxrI_pattern : bufAfterExec .bxrI pattern = some
    #v[0x88, 0x80, 0x98, 0xf0, 0xa8, 0xa0, 0x78, 0x50, 0xb8, 0xc0,
      0xc8, 0x30, 0x58, 0x60, 0x28, 0x10, 0x0f, 0x1e, 0x2d] := by decide

/-- BRV.F of `R`, section 2.3. -/
theorem test_brvF_ramp : bufAfterExec .brvF ramp = some
    #v[0x0f, 0x0e, 0x0d, 0x0c, 0x0b, 0x0a, 0x09, 0x08, 0x07, 0x06,
      0x05, 0x04, 0x03, 0x02, 0x01, 0x00, 0x10, 0x11, 0x12] := by decide

/-- BRV.F of `P`, section 2.3. -/
theorem test_brvF_pattern : bufAfterExec .brvF pattern = some
    #v[0xf0, 0xe1, 0xd2, 0xc3, 0xb4, 0xa5, 0x96, 0x87, 0x78, 0x69,
      0x5a, 0x4b, 0x3c, 0x2d, 0x1e, 0x0f, 0x0f, 0x1e, 0x2d] := by decide

/-- BRV.I of `R`, section 2.3. -/
theorem test_brvI_ramp : bufAfterExec .brvI ramp = some
    #v[0x0f, 0x0e, 0x0d, 0x0c, 0x0b, 0x0a, 0x09, 0x08, 0x07, 0x06,
      0x05, 0x04, 0x03, 0x02, 0x01, 0x00, 0x10, 0x11, 0x12] := by decide

/-- BRV.I of `P`, section 2.3. -/
theorem test_brvI_pattern : bufAfterExec .brvI pattern = some
    #v[0xf0, 0xe1, 0xd2, 0xc3, 0xb4, 0xa5, 0x96, 0x87, 0x78, 0x69,
      0x5a, 0x4b, 0x3c, 0x2d, 0x1e, 0x0f, 0x0f, 0x1e, 0x2d] := by decide

/-- IRT.F of `R`, section 2.4. -/
theorem test_irtF_ramp : bufAfterExec .irtF ramp = some
    #v[0x00, 0x40, 0x10, 0x30, 0x80, 0x82, 0x03, 0xe0, 0x20, 0x48,
      0xa0, 0xc2, 0x03, 0xd0, 0x1c, 0x87, 0x80, 0x22, 0x42] := by decide

/-- IRT.F of `P`, section 2.4. -/
theorem test_irtF_pattern : bufAfterExec .irtF pattern = some
    #v[0x1e, 0x87, 0x69, 0xc3, 0x69, 0x2d, 0xb4, 0x0f, 0x1e, 0xb4,
      0x5a, 0x2d, 0xf0, 0x2d, 0xc3, 0x78, 0x78, 0xc3, 0xa5] := by decide

/-- IRT.I of `R`, section 2.4. -/
theorem test_irtI_ramp : bufAfterExec .irtI ramp = some
    #v[0x00, 0x04, 0x40, 0x30, 0x20, 0x0a, 0x0c, 0x38, 0x02, 0x21,
      0xa0, 0x2c, 0x30, 0xd0, 0x07, 0x1e, 0x02, 0x88, 0x90] := by decide

/-- IRT.I of `P`, section 2.4. -/
theorem test_irtI_pattern : bufAfterExec .irtI pattern = some
    #v[0x87, 0x78, 0xa5, 0xc3, 0x5a, 0xb4, 0xd2, 0xc3, 0xe1, 0xd2,
      0x5a, 0xd2, 0x0f, 0x2d, 0xf0, 0xe1, 0xe1, 0xf0, 0x69] := by decide

/-- CAD.F of `R`, section 2.5. -/
theorem test_cadF_ramp : bufAfterExec .cadF ramp = some
    #v[0x33, 0xcd, 0x37, 0xcd, 0x3b, 0xcd, 0x3f, 0xcd, 0x43, 0xcd,
      0x47, 0xcd, 0x4b, 0xcd, 0x4f, 0xcd, 0x53, 0xcd, 0x57] := by decide

/-- CAD.F of `P`, section 2.5. -/
theorem test_cadF_pattern : bufAfterExec .cadF pattern = some
    #v[0x42, 0xea, 0x62, 0x06, 0x82, 0x22, 0xa2, 0x3e, 0xc2, 0x5a,
      0xe2, 0x76, 0x02, 0x92, 0x22, 0xae, 0x52, 0xda, 0x72] := by decide

/-- CAD.I of `R`, section 2.5. -/
theorem test_cadI_ramp : bufAfterExec .cadI ramp = some
    #v[0xcd, 0x35, 0xcd, 0x39, 0xcd, 0x3d, 0xcd, 0x41, 0xcd, 0x45,
      0xcd, 0x49, 0xcd, 0x4d, 0xcd, 0x51, 0xcd, 0x55, 0xcd] := by decide

/-- CAD.I of `P`, section 2.5. -/
theorem test_cadI_pattern : bufAfterExec .cadI pattern = some
    #v[0xdc, 0x52, 0xf8, 0x72, 0x14, 0x92, 0x30, 0xb2, 0x4c, 0xd2,
      0x68, 0xf2, 0x84, 0x12, 0xa0, 0x32, 0xcc, 0x62, 0xe8] := by decide

/-- NSW.F of `R`, section 2.6. -/
theorem test_nswF_ramp : bufAfterExec .nswF ramp = some
    #v[0x00, 0x10, 0x20, 0x30, 0x40, 0x50, 0x60, 0x70, 0x80, 0x90,
      0xa0, 0xb0, 0xc0, 0xd0, 0xe0, 0xf0, 0x01, 0x11, 0x21] := by decide

/-- NSW.F of `P`, section 2.6. -/
theorem test_nswF_pattern : bufAfterExec .nswF pattern = some
    #v[0xf0, 0xe1, 0xd2, 0xc3, 0xb4, 0xa5, 0x96, 0x87, 0x78, 0x69,
      0x5a, 0x4b, 0x3c, 0x2d, 0x1e, 0x0f, 0xf0, 0xe1, 0xd2] := by decide

/-- NSW.I of `R`, section 2.6. -/
theorem test_nswI_ramp : bufAfterExec .nswI ramp = some
    #v[0x00, 0x10, 0x20, 0x30, 0x40, 0x50, 0x60, 0x70, 0x80, 0x90,
      0xa0, 0xb0, 0xc0, 0xd0, 0xe0, 0xf0, 0x01, 0x11, 0x21] := by decide

/-- NSW.I of `P`, section 2.6. -/
theorem test_nswI_pattern : bufAfterExec .nswI pattern = some
    #v[0xf0, 0xe1, 0xd2, 0xc3, 0xb4, 0xa5, 0x96, 0x87, 0x78, 0x69,
      0x5a, 0x4b, 0x3c, 0x2d, 0x1e, 0x0f, 0xf0, 0xe1, 0xd2] := by decide

/-! ## Commands and the sequencer: vectors of sections 2.8 and 2.9, one step each -/

theorem test_forward_loads : (nextOf (exec (.forward 19 pattern) (small .done .inverse 6 []))).map
    (fun s => (s.buf, s.st, s.dir, s.seq)) = some (pattern, .run, .forward, 0) := by decide

theorem test_forward_turned_away : (nextOf (exec (.forward 19 pattern) (small .run .inverse 3 []))).map
    (fun s => (s.buf, s.st, s.dir, s.seq, s.host)) = some (ramp, .run, .inverse, 3, []) := by decide

theorem test_invert_loads : (nextOf (exec (.invert 19 pattern) (small .err .inverse 6 []))).map
    (fun s => (s.buf, s.st, s.dir, s.seq)) = some (pattern, .run, .inverse, 0) := by decide

theorem test_invert_shape_error : (nextOf (exec (.invert 18 pattern) (small .done .inverse 6 []))).map
    (fun s => (s.buf, s.st, s.dir, s.seq)) = some (ramp, .err, .inverse, 6) := by decide

/-- V4 and V5: the sixth step of each direction. -/
theorem test_sixth_step : (nextOf (step (small .run .inverse 5 []))).map
      (fun s => (s.buf, s.st, s.seq)) = (bufAfterExec .xswI ramp).map (·, .done, 6) ∧
    (nextOf (step (small .run .forward 5 []))).map
      (fun s => (s.buf, s.st, s.seq)) = (bufAfterExec .nswF ramp).map (·, .done, 6) := by decide

/-- V7 and V8: RESULT in `RUN` and in `DONE`. -/
theorem test_result : (nextOf (step (small .run .inverse 3 [.result]))).map
      (fun s => (s.seq, s.replies)) = some (3, []) ∧
    (nextOf (step (small .done .inverse 6 [.result]))).map
      (fun s => (s.st, s.replies)) = some (.done, [.data ramp]) := by decide

/-- E1 and its RESULT: ShapeError is indicated with no data. -/
theorem test_shape_error_indicated : (nextOf (step (small .err .forward 0 [.result]))).map
    (fun s => (s.st, s.replies)) = some (.err, [.shapeError]) := by decide

/-- V13: RESET in `RUN`, with a SUBMIT that coincides and is lost. -/
theorem test_reset_wins : (nextOf (step
      { small .run .inverse 2 [.submit (cmd 1 19)] with resetLine := [true] })).map
    (fun s => (s.st, s.dir, s.seq, s.host, s.replies)) =
      some (.idle, .forward, 0, [], []) := by decide

/-- S5 of the implementation-defined file: a state with `SEQ = 7` is refused, whatever `ST` and the
Host, and with RESET requested too. -/
theorem test_seq_seven_refused :
    step (small .idle .forward 7 [.submit (cmd 0 19)]) = .refused (.sequencerOutOfRange 7) ∧
    step (small .err .forward 7 [.result]) = .refused (.sequencerOutOfRange 7) ∧
    step { small .run .inverse 7 [] with resetLine := [true] } =
      .refused (.sequencerOutOfRange 7) := ⟨rfl, rfl, rfl⟩

/-- A software buffer of 256 bytes has no command (R41). -/
theorem test_adapter_limit : adapt .inverse (List.replicate 256 0) zeros = none := by
  unfold adapt
  rw [List.length_replicate]
  rfl

/-- A short software buffer: its length and its bytes (R41). -/
theorem test_adapter_bytes : (adapt .inverse [0x11, 0x22, 0x33] zeros).map
    (fun c => (c.dir, c.n, c.d[0], c.d[2])) = some (1, 3, 0x11, 0x33) := by decide

/-- The port values of the informative binding in `DONE` (section 6 of the storage file). -/
theorem test_ports : cmdReady (small .done .forward 6 []) = true ∧
    rspValid (small .done .forward 6 []) = true ∧ rspErr (small .done .forward 6 []) = 0 ∧
    (packBuffer ramp).extractLsb' 8 8 = (0x01 : Byte) := by decide

/-- R57: a mnemonic, a long name and a listed line. -/
theorem test_listing : parseMicroOperation "IRT.I" = some .irtI ∧
    parseMicroOperation "undo-XorSwap" = some .xswI ∧
    listMicroOperation 2 0xc .irtI = "2: 0xC  IRT.I" := by decide

/-- R57: each pseudo-instruction expands to the row of the micro-program of its direction. -/
theorem test_expansion : ∀ dir ∈ [Direction.forward, .inverse],
    (tableUROM dir).toList.map decodeU = (expansion dir).map Decoded.instr := by decide

/-! ## Witnesses: states and operands that meet the hypotheses of the statements -/

theorem noReset_small (st : Status) (dir : Direction) (seq : BitVec 3) (host : List HostOp) :
    NoReset (small st dir seq host) := by
  intro r h
  cases h

theorem witness_worked_examples : ({ State.reset with buf := ramp } : State).buf = ramp := rfl

/-- The zero block of R72 and the zero buffer of R75. -/
theorem witness_zero_buffer : (∀ (j : Nat) (_ : j < 16), State.reset.buf[j] = 0) ∧
    State.reset.buf = Vector.replicate 19 0 := ⟨by decide, rfl⟩

/-- A byte that rotation fixes and a byte whose nibbles are equal (R74, R76, R92). -/
theorem witness_fixed_points : State.reset.buf[0] = 0x00 ∧ ramp[17].toNat / 16 = ramp[17].toNat % 16 := by
  decide

/-- Two stages in a row that both give a next state (R71, R95, R99). -/
theorem witness_stage_twice : exec .xswF (small .idle .forward 0 []) =
      .next (applyStage xorSwap (small .idle .forward 0 [])) ∧
    exec .xswF (applyStage xorSwap (small .idle .forward 0 [])) =
      .next (applyStage xorSwap (applyStage xorSwap (small .idle .forward 0 []))) ∧
    exec .xswI (applyStage undoXorSwap (small .idle .forward 0 [])) =
      .next (applyStage undoXorSwap (applyStage undoXorSwap (small .idle .forward 0 []))) :=
  ⟨rfl, rfl, rfl⟩

/-- Shifts and bit numbers at the ends of their ranges (R6). -/
theorem witness_rotates : (7 : BitVec 3) ≠ 0 ∧ (1 : BitVec 3) ≠ 0 ∧ (0 : Nat) < 8 ∧ (7 : Nat) < 8 := by
  decide

/-- Lanes of both parities at the ends of the range (R8, R18). -/
theorem witness_shift_lanes : (0 : Nat) < 19 ∧ 0 % 2 = 0 ∧ (18 : Nat) < 19 ∧ 18 % 2 = 0 ∧
    (1 : Nat) < 19 ∧ 1 % 2 = 1 ∧ (17 : Nat) < 19 ∧ 17 % 2 = 1 := by decide

theorem witness_reserved_code : decode (.u 0b1111) = .reserved 0b1111 := by decide

theorem witness_step_runs_micro_operation : LeavesTurn (small .run .inverse 0 []) ∧
    (small .run .inverse 0 []).st = .run ∧
    (tableUROM (small .run .inverse 0 []).dir)[(small .run .inverse 0 []).seq.toNat]? = some 0xe ∧
    decode (.u 0xe) = .instr .nswI :=
  ⟨⟨rfl, .inl rfl⟩, rfl, by decide, by decide⟩

theorem witness_step_runs_command : resetRequested (small .idle .forward 0 [.command (cmd 0 19)]) = false ∧
    (small .idle .forward 0 [.command (cmd 0 19)]).host = .command (cmd 0 19) :: [] ∧
    (small .idle .forward 0 [.command (cmd 0 19)]).seq ≠ 7 ∧
    decode (.cmd (cmd 0 19)) = .instr (.forward 19 ramp) := ⟨rfl, rfl, by decide, by decide⟩

/-- A call of exactly 19 bytes, for which no byte of the payload is arbitrary. -/
theorem witness_step_runs_call :
    (small .idle .forward 0 [.call .inverse (List.replicate 19 0)]).seq ≠ 7 ∧
    resetRequested (small .idle .forward 0 [.call .inverse (List.replicate 19 0)]) = false ∧
    (∃ c, adapt .inverse (List.replicate 19 0) (freeBuffer 0) = some c ∧
      ∃ i, decode (.cmd c) = .instr i) :=
  ⟨by decide, rfl, _, rfl, _, rfl⟩

/-- The engine step at both ends of the row, and each way in which the Host leaves the turn. -/
theorem witness_engine_step :
    (LeavesTurn (small .run .forward 0 [.idle]) ∧ (small .run .forward 0 [.idle]).seq.toNat ≤ 5) ∧
    (LeavesTurn (small .run .forward 5 [.awaitResult]) ∧
      (small .run .forward 5 [.awaitResult]).seq.toNat ≤ 5 ∧
      (small .run .forward 5 [.awaitResult]).seq = 5) ∧
    (LeavesTurn (small .done .forward 6 []) ∧ (small .done .forward 6 []).st ≠ .run ∧
      (small .done .forward 6 []).seq ≠ 7) :=
  ⟨⟨⟨rfl, .inr (.inl rfl)⟩, by decide⟩, ⟨⟨rfl, .inr (.inr rfl)⟩, by decide, rfl⟩,
    ⟨⟨rfl, .inl rfl⟩, by decide, by decide⟩⟩

theorem witness_transaction : (small .idle .forward 0 [.submit (cmd 1 19)]).seq ≠ 7 ∧
    (small .idle .forward 0 [.submit (cmd 1 19)]).st ≠ .run ∧
    NoReset (small .idle .forward 0 [.submit (cmd 1 19)]) ∧
    (small .idle .forward 0 [.submit (cmd 1 19)]).host = [.submit (cmd 1 19)] ∧
    (cmd 1 19).n = 19 := ⟨by decide, by decide, noReset_small _ _ _ _, rfl, rfl⟩

/-- The control invariant in each of the four states, with a step that gives a next state. -/
theorem witness_control_invariant :
    ((small .idle .forward 0 []).controlOk = true ∧
      ∃ t, step (small .idle .forward 0 []) = .next t) ∧
    ((small .run .inverse 5 []).controlOk = true ∧
      ∃ t, step (small .run .inverse 5 []) = .next t) ∧
    ((small .done .forward 6 []).controlOk = true ∧
      ∃ t, step (small .done .forward 6 []) = .next t) ∧
    ((small .err .inverse 6 []).controlOk = true ∧
      ∃ t, step (small .err .inverse 6 []) = .next t) :=
  ⟨⟨by decide, _, rfl⟩, ⟨by decide, _, rfl⟩, ⟨by decide, _, rfl⟩, ⟨by decide, _, rfl⟩⟩

/-- A SUBMIT in each state, with the accepted length and with the two next to it. -/
theorem witness_submit :
    (small .err .inverse 6 [.submit (cmd 0 19)]).seq ≠ 7 ∧
    (small .run .inverse 3 [.submit (cmd 0 18)]).seq ≠ 7 ∧
    (small .done .inverse 6 [.submit (cmd 0 18)]).seq ≠ 7 ∧
    resetRequested (small .err .inverse 6 [.submit (cmd 0 19)]) = false ∧
    (small .err .inverse 6 [.submit (cmd 0 19)]).st ≠ .run ∧
    (small .err .inverse 6 [.submit (cmd 0 19)]).host = .submit (cmd 0 19) :: [] ∧
    (cmd 0 19).n = 19 ∧ (cmd 0 18).n ≠ 19 ∧ (cmd 1 20).n ≠ 19 ∧
    (small .run .inverse 3 [.submit (cmd 0 18)]).st = .run ∧
    (small .done .inverse 6 [.submit (cmd 0 18)]).st ≠ .run := by
  refine ⟨?_, ?_, ?_, rfl, ?_, rfl, rfl, ?_, ?_, rfl, ?_⟩ <;> decide

/-- A step that takes the machine to `ERR`, and steps from `ERR` and from `RUN`. -/
theorem witness_shape_error :
    (∃ t, step (small .idle .forward 0 [.submit (cmd 1 18)]) = .next t ∧
      (small .idle .forward 0 [.submit (cmd 1 18)]).st ≠ .err ∧ t.st = .err) ∧
    (∃ t, step (small .err .forward 0 []) = .next t ∧ (small .err .forward 0 []).st = .err) ∧
    (∃ t, step (small .run .forward 0 []) = .next t ∧ (small .run .forward 0 []).st = .run) :=
  ⟨⟨_, rfl, by decide, rfl⟩, ⟨_, rfl, rfl⟩, ⟨_, rfl, rfl⟩⟩

/-- Software buffers at the ends of the two ranges (R41). -/
theorem witness_adapter : (List.replicate 255 (0 : Byte)).length < 256 ∧
    256 ≤ (List.replicate 256 (0 : Byte)).length ∧ (0 : Nat) < (List.replicate 255 (0 : Byte)).length ∧
    (18 : Nat) < (List.replicate 255 (0 : Byte)).length ∧
    resetRequested (small .run .forward 2 [.call .inverse (List.replicate 256 0)]) = false ∧
    (small .run .forward 2 [.call .inverse (List.replicate 256 0)]).seq ≠ 7 ∧
    (18 : Len) ≠ 19 := by
  simp only [List.length_replicate]
  decide

/-- RESULT in each of the four states. -/
theorem witness_result : resetRequested (small .done .inverse 6 [.result]) = false ∧
    (small .done .inverse 6 [.result]).host = List.replicate 1 .result ∧
    NoReset (small .done .inverse 6 [.result]) ∧
    (small .err .inverse 6 [.result]).st = .err ∧ (small .idle .forward 0 [.result]).st = .idle ∧
    (small .run .inverse 3 [.result]).st = .run ∧
    (small .done .inverse 6 [.result]).seq ≠ 7 ∧ (small .err .inverse 6 [.result]).seq ≠ 7 ∧
    (small .idle .forward 0 [.result]).seq ≠ 7 ∧ (small .run .inverse 3 [.result]).seq ≠ 7 := by
  refine ⟨rfl, rfl, noReset_small _ _ _ _, rfl, rfl, rfl, ?_⟩
  decide

/-- A step outside `DONE` and a step in `DONE`, each with a next state. -/
theorem witness_result_steps :
    (∃ t, step (small .err .inverse 6 [.result]) = .next t ∧
      (small .err .inverse 6 [.result]).st ≠ .done) ∧
    (∃ t, step (small .done .inverse 6 [.submit (cmd 0 18)]) = .next t) :=
  ⟨⟨_, rfl, by decide⟩, ⟨_, rfl⟩⟩

/-- The commands FORWARD and INVERT, well-formed and malformed, where they are accepted. -/
theorem witness_commands : (small .err .inverse 6 [.command (cmd 0 19)]).st ≠ .run ∧
    NoReset (small .err .inverse 6 [.command (cmd 0 19)]) ∧
    (small .err .inverse 6 [.command (cmd 0 19)]).host = .command { dir := 0, n := 19, d := ramp } :: [] ∧
    (small .done .inverse 6 [.command (cmd 1 19)]).host =
      .command { dir := 1, n := 19, d := ramp } :: [] ∧
    (small .done .inverse 6 [.command (cmd 1 20)]).host =
      .command { dir := 1, n := 20, d := ramp } :: [] ∧
    (small .err .inverse 6 [.command (cmd 0 19)]).seq ≠ 7 ∧
    (small .done .inverse 6 [.command (cmd 1 20)]).seq ≠ 7 ∧
    (small .run .inverse 6 []).st = .run ∧ (20 : Len) ≠ 19 := by
  refine ⟨?_, noReset_small _ _ _ _, rfl, rfl, rfl, ?_, ?_, rfl, ?_⟩ <;> decide

/-- A SUBMIT, the shortest wait, and two RESULTs. -/
theorem witness_reply :
    (small .idle .forward 0
      (.submit (cmd 1 19) :: (List.replicate (6 + 0) .idle ++ List.replicate 2 .result))).seq ≠ 7 ∧
    (small .idle .forward 0
      (.submit (cmd 1 19) :: (List.replicate (6 + 0) .idle ++ List.replicate 2 .result))).st ≠ .run ∧
    NoReset (small .idle .forward 0
      (.submit (cmd 1 19) :: (List.replicate (6 + 0) .idle ++ List.replicate 2 .result))) :=
  ⟨by decide, by decide, noReset_small _ _ _ _⟩

/-- RESET in `RUN`, with a SUBMIT that coincides, and nothing, a wait and a RESULT that follow. -/
theorem witness_reset : ∃ s : State, s.seq ≠ 7 ∧ s.st = .run ∧ resetRequested s = true ∧
    (∀ r ∈ s.resetLine.tail, r = false) ∧ s.host.head? = some (.submit (cmd 1 19)) ∧
    s.host.tail = [.idle, .awaitResult, .result] ∧
    (∀ op ∈ s.host.tail, op = .idle ∨ op = .result ∨ op = .awaitResult) :=
  ⟨{ small .run .inverse 2 [.submit (cmd 1 19), .idle, .awaitResult, .result] with
      resetLine := [true, false] }, by decide⟩

/-- A state with `SEQ = 7`, one in `RUN` with `SEQ = 6` at the Engine's turn, and its refused step. -/
theorem witness_seq_out_of_range : (small .done .inverse 7 [.result]).seq = 7 ∧
    LeavesTurn (small .run .forward 6 [.idle]) ∧ (small .run .forward 6 [.idle]).st = .run ∧
    (small .run .forward 6 [.idle]).seq = 6 ∧
    step (small .run .forward 6 [.idle]) = .refused (.sequencerOutOfRange 6) :=
  ⟨rfl, ⟨rfl, .inr (.inl rfl)⟩, rfl, rfl, rfl⟩

/-- Runs from `IDLE` and from `ERR`. -/
theorem witness_unobservable :
    (∃ t, run 1 (small .idle .forward 0 [.result]) = .next t) ∧
    (∃ t, run 1 (small .err .inverse 6 [.result]) = .next t) := ⟨⟨_, rfl⟩, ⟨_, rfl⟩⟩

/-- A step that changes the buffer. -/
theorem witness_buffer_written :
    (step (small .idle .forward 0 [.submit { dir := 1, n := 19, d := zeros }]) =
      .next (loadTransaction .inverse zeros (small .idle .forward 0 []))) ∧
    (loadTransaction .inverse zeros (small .idle .forward 0 [])).buf ≠
      (small .idle .forward 0 [.submit { dir := 1, n := 19, d := zeros }]).buf :=
  ⟨rfl, by decide⟩

/-- Two states that agree on a lane, the first and the last. -/
theorem witness_lanes : ({ State.reset with buf := ramp } : State).buf[0] = State.reset.buf[0] ∧
    exec .irtF State.reset = .next (applyStage indexedRotate State.reset) ∧
    (0 : Nat) < 19 ∧ (18 : Nat) < 19 := ⟨by decide, rfl, by decide, by decide⟩

end Sys2Proof.Tests
end

section
/-! PROOFS. The byte primitives and the shift table (R4 to R8), the stages undoing each other (R97,
R98), and the command followed to its reply (R117, R118). -/

namespace Sys2Proof.Machine

/-! ## Byte primitives -/

/-- `sub8` as an integer difference modulo 256 (R5). -/
theorem sub8_toInt_emod (a c : Byte) :
    ((sub8 a c).toNat : Int) = ((a.toNat : Int) - c.toNat) % 256 := by
  rw [sub8_toNat]
  omega

/-- `swap4` needs no widening: the bits shifted out are masked off (R7). -/
theorem swap4_eq_byte_formula :
    ∀ b : Byte, swap4 b = ((b <<< 4) &&& 0xf0) ||| ((b >>> 4) &&& 0x0f) := by decide

/-- `swap4` in numbers: the low nibble becomes the high one (R7). -/
theorem swap4_toNat :
    ∀ b : Byte, (swap4 b).toNat = 16 * (b.toNat % 16) + b.toNat / 16 := by decide

theorem rol8_zero (b : Byte) : rol8 b 0 = b := rfl

theorem ror8_zero (b : Byte) : ror8 b 0 = b := rfl

/-- A byte shifted to the right stays below 256. -/
theorem toNat_shiftRight_mod (b : Byte) (k : Nat) : b.toNat >>> k % 256 = b.toNat >>> k :=
  Nat.mod_eq_of_lt ((Nat.shiftRight_le _ _).trans_lt b.isLt)

/-- A right shift of the widened byte is the right shift of the byte. -/
theorem setWidth_widened_ushiftRight (b : Byte) (k : Nat) :
    ((b.setWidth 16) >>> k).setWidth 8 = b >>> k := by
  apply BitVec.eq_of_toNat_eq
  have hwide : b.toNat % 65536 = b.toNat := by omega
  simp [hwide, toNat_shiftRight_mod]

/-- `rol8` by a shift other than 0, without the widening (R6). -/
theorem rol8_of_ne_zero {s : BitVec 3} (b : Byte) (hs : s ≠ 0) :
    rol8 b s = b <<< s.toNat ||| b >>> (8 - s.toNat) := by
  rw [rol8, if_neg hs, BitVec.setWidth_or, setWidth_widened_ushiftRight]
  simp

/-- `ror8` by a shift other than 0, without the widening (R6). -/
theorem ror8_of_ne_zero {s : BitVec 3} (b : Byte) (hs : s ≠ 0) :
    ror8 b s = b >>> s.toNat ||| b <<< (8 - s.toNat) := by
  rw [ror8, if_neg hs, BitVec.setWidth_or, setWidth_widened_ushiftRight]
  simp

/-- The shift formula of `rol8` (R6). -/
theorem rol8_toNat {s : BitVec 3} (b : Byte) (hs : s ≠ 0) :
    (rol8 b s).toNat = (b.toNat <<< s.toNat ||| b.toNat >>> (8 - s.toNat)) % 256 := by
  rw [rol8_of_ne_zero b hs, Nat.or_mod_two_pow (n := 8), toNat_shiftRight_mod]
  simp

/-- The shift formula of `ror8` (R6). -/
theorem ror8_toNat {s : BitVec 3} (b : Byte) (hs : s ≠ 0) :
    (ror8 b s).toNat = (b.toNat >>> s.toNat ||| b.toNat <<< (8 - s.toNat)) % 256 := by
  rw [ror8_of_ne_zero b hs, Nat.or_mod_two_pow (n := 8), toNat_shiftRight_mod]
  simp

/-- A rotation to the right is one to the left by the complementary amount (R6). -/
theorem ror8_eq_rol8 (b : Byte) (s : BitVec 3) :
    ror8 b s = rol8 b (BitVec.ofNat 3 ((8 - s.toNat) % 8)) := by
  by_cases hs : s = 0
  · subst hs; rfl
  · have hpos : s.toNat ≠ 0 := fun h => hs (BitVec.eq_of_toNat_eq h)
    have hlt := s.isLt
    have hamount : (BitVec.ofNat 3 ((8 - s.toNat) % 8)).toNat = 8 - s.toNat := by
      simp only [BitVec.toNat_ofNat]; omega
    have hne : BitVec.ofNat 3 ((8 - s.toNat) % 8) ≠ 0 := by
      intro h
      have hzero : 0 = 8 - s.toNat := by rw [← hamount, h]; rfl
      omega
    apply BitVec.eq_of_toNat_eq
    rw [ror8_toNat b hs, rol8_toNat b hne, hamount, Nat.sub_sub_self (by omega), Nat.or_comm]

/-- Bit `j` of a rotation to the right (R6). -/
theorem getLsbD_ror8 (b : Byte) (s : BitVec 3) {j : Nat} (hj : j < 8) :
    (ror8 b s).getLsbD j = b.getLsbD ((j + s.toNat) % 8) := by
  by_cases hs : s = 0
  · subst hs
    exact congrArg b.getLsbD (Nat.mod_eq_of_lt hj).symm
  have hlt := s.isLt
  rw [ror8_of_ne_zero b hs, BitVec.getLsbD_or, BitVec.getLsbD_ushiftRight,
    BitVec.getLsbD_shiftLeft]
  by_cases hwrap : j + s.toNat < 8
  · have hlow : j < 8 - s.toNat := by omega
    simp [hlow, Nat.mod_eq_of_lt hwrap, Nat.add_comm]
  · have hhigh : ¬ j < 8 - s.toNat := by omega
    have hout : b.getLsbD (s.toNat + j) = false := BitVec.getLsbD_of_ge _ _ (by omega)
    have hbit : (j + s.toNat) % 8 = j - (8 - s.toNat) := by omega
    simp [hj, hhigh, hout, hbit]

/-- Bit `j` moves to bit `(j + s) mod 8` in a rotation to the left, because the rotation to the
right takes it back (R6). -/
theorem getLsbD_rol8 (b : Byte) (s : BitVec 3) {j : Nat} (hj : j < 8) :
    (rol8 b s).getLsbD ((j + s.toNat) % 8) = b.getLsbD j := by
  rw [← getLsbD_ror8 (rol8 b s) s hj, ror8_rol8]

/-- A nibble swap is a rotation by four to the right as well (R7). -/
theorem ror8_four (b : Byte) : ror8 b 4 = swap4 b :=
  (ror8_eq_rol8 b 4).trans (rol8_four b)

/-! ## The shift formula -/

/-- On an even lane the formula is the residue modulo 7 plus one (R8, R18). -/
theorem shift_of_even {i : Nat} (h : i % 2 = 0) : shift i = i % 7 + 1 := by
  simp only [shift, h, if_true]
  omega

/-- On an odd lane the formula is the residue modulo 5 plus one (R8, R18). -/
theorem shift_of_odd {i : Nat} (h : i % 2 = 1) : shift i = i % 5 + 1 := by
  have h' : ¬ i % 2 = 0 := by omega
  simp only [shift, h', if_false]
  omega

/-- The shift is never 0 and never exceeds 7 (R18). -/
theorem shift_range (i : Nat) : 1 ≤ shift i ∧ shift i ≤ 7 := by
  rcases Nat.mod_two_eq_zero_or_one i with h | h
  · rw [shift_of_even h]; omega
  · rw [shift_of_odd h]; omega

/-- The printed table holds the formula's value on every lane (R18). -/
theorem tableSH_toNat : ∀ (i : Nat) (_ : i < 19), tableSH[i].toNat = shift i := by decide

/-! ## The stages undo each other -/

/-- Two buffers that agree on the block and on the tail are one buffer. -/
theorem buffer_ext {a b : Buffer} (hblock : ∀ (j : Nat) (_ : j < 16), a[j] = b[j])
    (htail : ∀ (i : Nat) (_ : i < 19), 16 ≤ i → a[i] = b[i]) : a = b := by
  apply Vector.ext
  intro i hi
  by_cases h : i < 16
  · exact hblock i h
  · exact htail i hi (by omega)

@[simp] theorem undoXorSwap_xorSwap (b : Buffer) : undoXorSwap (xorSwap b) = b := by
  apply Vector.ext
  intro i hi
  by_cases h : i < 3
  · rw [undoXorSwap_getElem_low _ i h, xorSwap_getElem_tail b i h, xor8_xor8]
  · obtain ⟨j, rfl⟩ : ∃ j, i = j + 3 := ⟨i - 3, by omega⟩
    rw [undoXorSwap_getElem_high _ j (by omega), xorSwap_getElem_block b j (by omega)]

@[simp] theorem xorSwap_undoXorSwap (b : Buffer) : xorSwap (undoXorSwap b) = b := by
  apply buffer_ext
  · intro j h
    rw [xorSwap_getElem_block _ j h, undoXorSwap_getElem_high b j h]
  · intro i hi h
    obtain ⟨p, hp, rfl⟩ : ∃ p, p < 3 ∧ i = 18 - p := ⟨18 - i, by omega, by omega⟩
    rw [xorSwap_getElem_tail _ p hp, undoXorSwap_getElem_low b p hp, xor8_xor8]

/-- Keying the block twice gives it back (R72). -/
theorem blockXor_blockXor (b : Buffer) : blockXor (blockXor b) = b := by
  apply buffer_ext
  · intro j h
    rw [blockXor_getElem _ j h, blockXor_getElem b j h, xor8_xor8]
  · intro i hi h
    rw [blockXor_getElem_tail _ i hi h, blockXor_getElem_tail b i hi h]

/-- Reversing the block twice gives it back (R73). -/
theorem blockReverse_blockReverse (b : Buffer) : blockReverse (blockReverse b) = b := by
  apply buffer_ext
  · intro j h
    rw [blockReverse_getElem _ j h, blockReverse_getElem b (15 - j) (by omega)]
    congr 1
    omega
  · intro i hi h
    rw [blockReverse_getElem_tail _ i hi h, blockReverse_getElem_tail b i hi h]

/-- BXR.I is the function of BXR.F (R94). -/
theorem undoBlockXor_eq : undoBlockXor = blockXor := rfl

/-- BRV.I is the function of BRV.F (R93). -/
theorem undoBlockReverse_eq : undoBlockReverse = blockReverse := rfl

/-- NSW.I is the function of NSW.F (R90). -/
theorem undoNibbleSwap_eq : undoNibbleSwap = nibbleSwap := by
  funext b
  apply Vector.ext
  intro i hi
  rw [undoNibbleSwap_getElem b i hi, nibbleSwap_getElem b i hi]

/-- Swapping the nibbles twice gives them back (R76). -/
theorem nibbleSwap_nibbleSwap (b : Buffer) : nibbleSwap (nibbleSwap b) = b := by
  apply Vector.ext
  intro i hi
  rw [nibbleSwap_getElem _ i hi, nibbleSwap_getElem b i hi, swap4_swap4]

@[simp] theorem undoBlockXor_blockXor (b : Buffer) : undoBlockXor (blockXor b) = b :=
  blockXor_blockXor b

@[simp] theorem blockXor_undoBlockXor (b : Buffer) : blockXor (undoBlockXor b) = b :=
  blockXor_blockXor b

@[simp] theorem undoBlockReverse_blockReverse (b : Buffer) :
    undoBlockReverse (blockReverse b) = b := blockReverse_blockReverse b

@[simp] theorem blockReverse_undoBlockReverse (b : Buffer) :
    blockReverse (undoBlockReverse b) = b := blockReverse_blockReverse b

@[simp] theorem undoIndexedRotate_indexedRotate (b : Buffer) :
    undoIndexedRotate (indexedRotate b) = b := by
  apply Vector.ext
  intro i hi
  rw [undoIndexedRotate_getElem _ i hi, indexedRotate_getElem b i hi,
    Rotation.opposite_apply_apply]

@[simp] theorem indexedRotate_undoIndexedRotate (b : Buffer) :
    indexedRotate (undoIndexedRotate b) = b := by
  apply Vector.ext
  intro i hi
  rw [indexedRotate_getElem _ i hi, undoIndexedRotate_getElem b i hi,
    Rotation.apply_opposite_apply]

@[simp] theorem undoConstantAdd_constantAdd (b : Buffer) :
    undoConstantAdd (constantAdd b) = b := by
  apply Vector.ext
  intro i hi
  rw [undoConstantAdd_getElem _ i hi, constantAdd_getElem b i hi, sub8_add8]

@[simp] theorem constantAdd_undoConstantAdd (b : Buffer) :
    constantAdd (undoConstantAdd b) = b := by
  apply Vector.ext
  intro i hi
  rw [constantAdd_getElem _ i hi, undoConstantAdd_getElem b i hi, add8_sub8]

@[simp] theorem undoNibbleSwap_nibbleSwap (b : Buffer) : undoNibbleSwap (nibbleSwap b) = b := by
  rw [undoNibbleSwap_eq, nibbleSwap_nibbleSwap]

@[simp] theorem nibbleSwap_undoNibbleSwap (b : Buffer) : nibbleSwap (undoNibbleSwap b) = b := by
  rw [undoNibbleSwap_eq, nibbleSwap_nibbleSwap]

/-- INVERT undoes FORWARD: the stages cancel from the middle outwards (R98). -/
theorem invertSequence_forwardSequence (b : Buffer) :
    invertSequence (forwardSequence b) = b := by
  simp [invertSequence, forwardSequence]

/-- FORWARD undoes INVERT (R2, R98). -/
theorem forwardSequence_invertSequence (f : Buffer) :
    forwardSequence (invertSequence f) = f := by
  simp [invertSequence, forwardSequence]

/-- INVERT gives the only buffer that FORWARD takes to `f` (R2). -/
theorem eq_invertSequence_of_forwardSequence_eq {y f : Buffer} (h : forwardSequence y = f) :
    y = invertSequence f := by
  rw [← h, invertSequence_forwardSequence]

/-! ## A command followed to its reply -/

/-- The state that a well-formed command leaves: its transaction loaded, the Host waiting for the
result (R112, R117, R118). -/
def loadedByCommand (c : Command) (s : State) : State :=
  pushHost .awaitResult
    (loadTransaction (Direction.ofCode c.dir) c.d (popHost (popResetLine s)))

/-- The step that issues an accepted, well-formed command. -/
theorem step_of_wellFormed_command {s : State} {c : Command} {rest : List HostOp}
    (hq : s.seq ≠ 7) (hr : s.st ≠ .run) (hn : NoReset s) (hc : c.n = 19)
    (hh : s.host = .command c :: rest) : step s = .next (loadedByCommand c s) := by
  have hr' : (popHost (popResetLine s)).st ≠ .run := hr
  rw [step_of_command hq (resetRequested_of_all_false hn) (by rw [hh]; rfl),
    issueCommand_of_ready hr', submit_of_wellFormed hr' hc, loadedByCommand]

/-- The step in which a Host that waits, and is not reset, takes the result (R115). -/
theorem step_of_wait_done {s : State} {rest : List HostOp} (hq : s.seq = 6) (hd : s.st = .done)
    (hn : NoReset s) (hh : s.host = .awaitResult :: rest) :
    step s = .next (deliver (.data s.buf) (popHost (popResetLine s))) := by
  rw [step_of_wait_over (by rw [hq]; decide) (resetRequested_of_all_false hn) (by rw [hh]; rfl)
    (by rw [hd]; decide), takeResult_eq]
  simp [hd]

/-- A loaded transaction whose result the Host waits for: the six stages of its row, and the result
(R114, R115). -/
theorem run_awaited_transaction {u : State} {rest : List HostOp} (hs : u.st = .run)
    (hq : u.seq = 0) (hn : NoReset u) (hh : u.host = .awaitResult :: rest) :
    run 7 u = .next (deliver (.data (sequenceOf u.dir u.buf))
      (popHost (popResetLine (afterTurns u 6)))) := by
  have hturns : run 6 u = .next (afterTurns u 6) :=
    run_turns hs hq hn 6 le_rfl fun i _ => by
      rw [hh, hostAfterTurn_await]
      exact .inr (.inr rfl)
  have hwait : (afterTurns u 6).host = .awaitResult :: rest := by
    simp only [afterTurns, hh, hostAfterTurn_await]
  have hbuf : (afterTurns u 6).buf = sequenceOf u.dir u.buf := bufAfter_six u.dir u.buf
  have hreset : NoReset (afterTurns u 6) := noReset_drop hn 6
  calc run 7 u = run 1 (afterTurns u 6) := run_add_of_next (b := 1) hturns
    _ = step (afterTurns u 6) := run_one _
    _ = _ := by rw [step_of_wait_done rfl rfl hreset hwait, hbuf]

/-- An accepted, well-formed command of either direction: its SUBMIT, the six stages of its row,
and the result (R117, R118). -/
theorem run_wellFormed_command {s : State} {c : Command} {rest : List HostOp}
    (hq : s.seq ≠ 7) (hr : s.st ≠ .run) (hn : NoReset s) (hc : c.n = 19)
    (hh : s.host = .command c :: rest) :
    ∃ t, run 8 s = .next t ∧
      t.replies = .data (sequenceOf (Direction.ofCode c.dir) c.d) :: s.replies ∧
      t.st = .done ∧ t.dir = Direction.ofCode c.dir ∧ t.seq = 6 ∧
      t.buf = sequenceOf (Direction.ofCode c.dir) c.d ∧ t.host = rest := by
  have hissue : run 1 s = .next (loadedByCommand c s) :=
    (run_one s).trans (step_of_wellFormed_command hq hr hn hc hh)
  have hwait : (loadedByCommand c s).host = .awaitResult :: rest := by
    simp [loadedByCommand, hh]
  have hreset : NoReset (loadedByCommand c s) := noReset_tail hn
  have hawaited := run_awaited_transaction rfl rfl hreset hwait
  refine ⟨_, (run_add_of_next (b := 7) hissue).trans hawaited, rfl, rfl, rfl, rfl,
    bufAfter_six _ _, ?_⟩
  simp [afterTurns, hwait, hostAfterTurn_await]

end Sys2Proof.Machine
end

section
/-! PROOFS. The obligations of the scope rules (R2, R4 to R8). -/

namespace Sys2Proof.Machine

/-- Settles O13: sums and differences by their closed forms, `swap4` by its value in numbers, and
the right rotation by 4 as the left rotation by 4. -/
theorem bytePrimitivesCompute : Obligations.BytePrimitivesCompute := by
  refine ⟨fun a k => ⟨rfl, xor8_xor8 a k⟩,
    fun a c => ⟨add8_toNat a c, sub8_toInt_emod a c, sub8_add8 a c, add8_sub8 a c⟩, fun b => ?_⟩
  have hlt := b.isLt
  have hswap := swap4_toNat b
  exact ⟨swap4_eq_byte_formula b, by omega, by omega, swap4_swap4 b, (rol8_four b).symm,
    (ror8_four b).symm⟩

/-- Settles O14: the bits of `ror8` from its shift formula, those of `rol8` because `ror8` takes
them back. -/
theorem rotatesMoveEveryBit : Obligations.RotatesMoveEveryBit :=
  ⟨fun b s _ hj => ⟨getLsbD_rol8 b s hj, getLsbD_ror8 b s hj⟩,
    fun b _ hs => ⟨rol8_toNat b hs, ror8_toNat b hs⟩,
    fun b => ⟨rol8_zero b, ror8_zero b⟩,
    fun b s => ⟨rol8_ror8 b s, ror8_rol8 b s, ror8_eq_rol8 b s⟩⟩

/-- Settles O39: the command runs to the reply INVERT of `f`, and FORWARD and INVERT undo each
other. -/
theorem invertCommandReturnsTheUniquePreimage :
    Obligations.InvertCommandReturnsTheUniquePreimage := by
  intro s f rest hq hr hn hh
  obtain ⟨t, hrun, hreply, -⟩ := run_wellFormed_command hq hr hn rfl hh
  exact ⟨t, invertSequence f, hrun, hreply, forwardSequence_invertSequence f,
    fun _ => eq_invertSequence_of_forwardSequence_eq⟩

/-- Settles O16: the printed table is compared with the formula lane by lane, and the formula is a
residue plus one. -/
theorem shiftTableFollowsTheFormula : Obligations.ShiftTableFollowsTheFormula := by
  refine ⟨rfl, fun i hi => ?_⟩
  obtain ⟨hpos, hle⟩ := shift_range i
  refine ⟨tableSH_toNat i hi, by omega, hpos, hle, fun heven => ?_, fun hodd => ?_⟩
  · have hres := shift_of_even heven
    exact ⟨by omega, hres, if_pos heven⟩
  · have hres := shift_of_odd hodd
    exact ⟨by omega, hres, if_neg (by omega)⟩

end Sys2Proof.Machine
end

section
/-! PROOFS. The control invariant by status (R12 to R14, R21), when a step is refused (R12, R37), and
runs that differ in a buffer that no one can read (R21, R116). -/

namespace Sys2Proof.Machine

/-! ## The control invariant, status by status -/

theorem controlOk_of_idle {s : State} (h : s.st = .idle) :
    s.controlOk = true ↔ s.dir = .forward ∧ s.seq = 0 := by
  simp [State.controlOk, h]

theorem controlOk_of_run {s : State} (h : s.st = .run) :
    s.controlOk = true ↔ s.seq.toNat ≤ 5 := by
  simp [State.controlOk, h]

theorem controlOk_of_done {s : State} (h : s.st = .done) :
    s.controlOk = true ↔ s.seq = 6 := by
  simp [State.controlOk, h]

theorem controlOk_of_err {s : State} (h : s.st = .err) :
    s.controlOk = true ↔ s.seq = 6 ∨ (s.dir = .forward ∧ s.seq = 0) := by
  simp [State.controlOk, h]

/-- The invariant reads the three control fields only. -/
theorem controlOk_of_engineKept {s t : State} (hk : EngineKept s t) :
    t.controlOk = s.controlOk := by
  obtain ⟨-, hst, hdir, hseq⟩ := hk
  simp only [State.controlOk, hst, hdir, hseq]

/-- No status allows `SEQ = 7` (R12). -/
theorem seq_ne_seven_of_controlOk {s : State} (h : s.controlOk = true) : s.seq ≠ 7 := by
  cases hst : s.st with
  | idle =>
    rw [((controlOk_of_idle hst).mp h).2]
    decide
  | run => exact seq_ne_seven_of_le ((controlOk_of_run hst).mp h)
  | done =>
    rw [(controlOk_of_done hst).mp h]
    decide
  | err =>
    rcases (controlOk_of_err hst).mp h with hq | ⟨-, hq⟩ <;> rw [hq] <;> decide

/-! ## The sequencer's counter -/

/-- From an index of the row the counter does not wrap (R12). -/
theorem seq_add_one_toNat {q : BitVec 3} (h : q.toNat ≤ 5) : (q + 1).toNat = q.toNat + 1 := by
  rw [BitVec.toNat_add]
  exact Nat.mod_eq_of_lt (by simp; omega)

theorem seq_add_one_ne_seven {q : BitVec 3} (h : q.toNat ≤ 5) : q + 1 ≠ 7 := by
  revert q; decide

theorem seq_add_one_le_five {q : BitVec 3} (h : q.toNat ≤ 5) (h5 : q ≠ 5) :
    (q + 1).toNat ≤ 5 := by
  revert q; decide

theorem seq_add_one_eq_six_iff (q : BitVec 3) : q + 1 = 6 ↔ q = 5 := by
  revert q; decide

/-- The sixth micro-operation of a row ends the transaction (R114). -/
theorem advance_st_of_five {s : State} (h : s.seq = 5) : (advance s).st = .done := by
  rw [advance_st, if_pos ((seq_add_one_eq_six_iff s.seq).mpr h)]

theorem advance_st_of_ne_five {s : State} (h : s.seq ≠ 5) : (advance s).st = s.st := by
  rw [advance_st, if_neg fun h6 => h ((seq_add_one_eq_six_iff s.seq).mp h6)]

/-- An index of the row holds a code (R113). -/
theorem fetchCode_of_le {s : State} (h : s.seq.toNat ≤ 5) : ∃ code, fetchCode s = some code := by
  obtain ⟨code, hcode, -⟩ := Option.map_eq_some_iff.mp (fetch_decodes s.dir s.seq h)
  exact ⟨code, hcode⟩

/-- An advance in `RUN` from an index of the row ends in `DONE` with 6 or stays in `RUN` with an
index (R113, R114). -/
theorem advance_controlOk {s : State} (hst : s.st = .run) (hq : s.seq.toNat ≤ 5) :
    (advance s).controlOk = true := by
  by_cases h5 : s.seq = 5
  · rw [controlOk_of_done (advance_st_of_five h5), advance_seq, seq_add_one_eq_six_iff]
    exact h5
  · rw [controlOk_of_run ((advance_st_of_ne_five h5).trans hst), advance_seq]
    exact seq_add_one_le_five hq h5

/-- The state before a failed SUBMIT met the invariant outside `RUN`, which is all that `ERR` asks
for (R111). -/
theorem controlOk_of_shapeError {s t : State} (hs : s.controlOk = true) (hst : s.st ≠ .run)
    (ht : t.st = .err) (hdir : t.dir = s.dir) (hseq : t.seq = s.seq) : t.controlOk = true := by
  rw [controlOk_of_err ht, hdir, hseq]
  cases h : s.st with
  | idle => exact .inr ((controlOk_of_idle h).mp hs)
  | run => exact absurd h hst
  | done => exact .inl ((controlOk_of_done h).mp hs)
  | err => exact (controlOk_of_err h).mp hs

/-- Every step keeps the control invariant, by the five things a step can be. -/
theorem step_controlOk {s t : State} (hs : s.controlOk = true) (h : step s = .next t) :
    t.controlOk = true := by
  cases step_effect h with
  | reset hr ht => subst ht; rfl
  | load c ha hn hb hd hq hst hp =>
    rw [controlOk_of_run hst, hq]
    decide
  | shape c ha hn hb hd hq hst hp =>
    obtain ⟨-, hready, -, -⟩ := ha
    exact controlOk_of_shapeError hs hready hst hd hq
  | engine hl hst hq ht =>
    subst ht
    exact advance_controlOk (by simpa using hst) (by simpa using hq)
  | kept hr hk hp => rw [controlOk_of_engineKept hk, hs]

/-- No step leads to `SEQ = 7`, from any state (R12). -/
theorem step_seq_ne_seven {s t : State} (h : step s = .next t) : t.seq ≠ 7 := by
  have hs : s.seq ≠ 7 := seq_ne_seven_of_step h
  cases step_effect h with
  | reset hr ht => subst ht; simp
  | load c ha hn hb hd hq hst hp => rw [hq]; decide
  | shape c ha hn hb hd hq hst hp => rwa [hq]
  | engine hl hst hq ht =>
    rw [ht, advance_seq, applyStage_seq, turnState_seq]
    exact seq_add_one_ne_seven hq
  | kept hr hk hp =>
    obtain ⟨-, -, -, hseq⟩ := hk
    rwa [hseq]

/-- The writers of `DIR`, by the five things a step can be (R13). -/
theorem step_dir {s t : State} (h : step s = .next t) :
    (resetRequested s = true ∧ t.dir = .forward) ∨
    (∃ c, Accepts s c ∧ c.n = 19 ∧ t.dir = Direction.ofCode c.dir) ∨ t.dir = s.dir := by
  cases step_effect h with
  | reset hr ht => exact .inl ⟨hr, by simp [ht]⟩
  | load c ha hn hb hd hq hst hp => exact .inr (.inl ⟨c, ha, hn, hd⟩)
  | shape c ha hn hb hd hq hst hp => exact .inr (.inr hd)
  | engine hl hst hq ht => exact .inr (.inr (by simp [ht]))
  | kept hr hk hp =>
    obtain ⟨-, -, hdir, -⟩ := hk
    exact .inr (.inr hdir)

/-! ## When a step is refused -/

/-- At the Engine's turn `SEQ = 6` is outside the row (R37, log entry 8). -/
theorem step_of_six {s : State} (hl : LeavesTurn s) (hst : s.st = .run) (hq : s.seq = 6) :
    step s = .refused (.sequencerOutOfRange 6) := by
  have hout : (turnState s).seq = 6 := by rw [turnState_seq, hq]
  rw [step_of_turn (by rw [hq]; decide) hl hst, engineStep_out (by rw [hout]; decide), hout]

/-- A legal `SEQ` is an index of the row or 6 (R12). -/
theorem seq_le_five_or_eq_six {q : BitVec 3} (h : q ≠ 7) : q.toNat ≤ 5 ∨ q = 6 := by
  revert q; decide

/-- A state with a legal `SEQ` has a next state unless the Engine's turn comes in `RUN` with
`SEQ = 6`. -/
theorem step_next_of_seq_legal {s : State} (hq : s.seq ≠ 7)
    (hsix : ¬ (LeavesTurn s ∧ s.st = .run ∧ s.seq = 6)) : ∃ t, step s = .next t := by
  rcases hr : resetRequested s with _ | _
  swap
  · exact ⟨_, step_of_reset hq hr⟩
  have turn : LeavesTurn s → s.st = .run → ∃ t, step s = .next t := by
    intro hl hst
    have hle : s.seq.toNat ≤ 5 :=
      (seq_le_five_or_eq_six hq).resolve_right fun h6 => hsix ⟨hl, hst, h6⟩
    exact ⟨_, (step_of_turn hq hl hst).trans (engineStep_eq (by rwa [turnState_seq]))⟩
  rcases ho : s.host.head? with _ | op
  · by_cases hst : s.st = .run
    · exact turn ⟨hr, .inl ho⟩ hst
    · exact ⟨_, step_of_idle_turn hq hr (.inl ho) hst⟩
  cases op with
  | idle =>
    by_cases hst : s.st = .run
    · exact turn ⟨hr, .inr (.inl ho)⟩ hst
    · exact ⟨_, step_of_idle_turn hq hr (.inr ho) hst⟩
  | awaitResult =>
    by_cases hst : s.st = .run
    · exact turn ⟨hr, .inr (.inr ho)⟩ hst
    · exact ⟨_, step_of_wait_over hq hr ho hst⟩
  | result => exact ⟨_, step_of_result hq hr ho⟩
  | submit c => exact ⟨_, step_of_submit hq hr ho⟩
  | command c => exact ⟨_, step_of_command hq hr ho⟩
  | call dir bytes =>
    rw [step_of_call hq hr ho]
    cases adapt dir bytes (freeBuffer s.draws) with
    | none => exact ⟨_, rfl⟩
    | some c => exact ⟨_, rfl⟩

/-! ## A buffer that no one can read -/

/-- `s` with another buffer. -/
def withBuf (b : Buffer) (s : State) : State := { s with buf := b }

/-- In `IDLE` and in `ERR` the Host gets no byte of the buffer (R116). -/
def BufHidden (s : State) : Prop := s.st = .idle ∨ s.st = .err

theorem BufHidden.st_ne_run {s : State} (h : BufHidden s) : s.st ≠ .run := by
  rcases h with h | h <;> rw [h] <;> decide

/-- `t'` is `t`, or differs from it in a hidden buffer only. -/
def SameOrHidden (b : Buffer) (t t' : State) : Prop := t' = t ∨ (BufHidden t ∧ t' = withBuf b t)

/-- The Host cannot tell the two states apart: they agree on everything but `BUF`. -/
theorem SameOrHidden.observed {b : Buffer} {t t' : State} (h : SameOrHidden b t t') :
    t'.replies = t.replies ∧ t'.st = t.st ∧ t'.dir = t.dir ∧ t'.seq = t.seq := by
  rcases h with rfl | ⟨-, rfl⟩ <;> exact ⟨rfl, rfl, rfl, rfl⟩

/-- A SUBMIT overwrites a hidden buffer or leaves it hidden (R111, R112). -/
theorem submit_withBuf (b : Buffer) (c : Command) {s : State} (h : s.st ≠ .run) :
    SameOrHidden b (submit c s) (submit c (withBuf b s)) := by
  have h' : (withBuf b s).st ≠ .run := h
  by_cases hn : c.n = 19
  · left
    rw [submit_of_wellFormed h hn, submit_of_wellFormed h' hn]
    rfl
  · right
    rw [submit_of_malformed h hn, submit_of_malformed h' hn]
    exact ⟨.inr rfl, rfl⟩

/-- A command is its SUBMIT and a wait, which reads no buffer (R117, R118). -/
theorem issueCommand_withBuf (b : Buffer) (c : Command) {s : State} (h : s.st ≠ .run) :
    SameOrHidden b (issueCommand c s) (issueCommand c (withBuf b s)) := by
  have h' : (withBuf b s).st ≠ .run := h
  rw [issueCommand_of_ready h, issueCommand_of_ready h']
  rcases submit_withBuf b c h with heq | ⟨hhid, heq⟩
  · exact .inl (by rw [heq])
  · exact .inr ⟨hhid, by rw [heq]; rfl⟩

/-- RESULT reads no hidden buffer (R116). -/
theorem takeResult_withBuf (b : Buffer) {s : State} (h : BufHidden s) :
    SameOrHidden b (takeResult s) (takeResult (withBuf b s)) := by
  have hst : (withBuf b s).st = s.st := rfl
  rw [takeResult_eq, takeResult_eq, hst]
  rcases h with h | h <;> simp only [h]
  · exact .inr ⟨.inl h, rfl⟩
  · exact .inr ⟨.inr h, rfl⟩

/-- A step from a state with a hidden buffer, and the same step with another buffer there. -/
theorem step_withBuf (b : Buffer) {s t : State} (hs : BufHidden s) (h : step s = .next t) :
    ∃ t', step (withBuf b s) = .next t' ∧ SameOrHidden b t t' := by
  have hq : s.seq ≠ 7 := seq_ne_seven_of_step h
  have hst : s.st ≠ .run := hs.st_ne_run
  rcases hr : resetRequested s with _ | _
  swap
  · rw [step_of_reset hq hr] at h
    cases h
    exact ⟨_, step_of_reset (s := withBuf b s) hq hr, .inl rfl⟩
  have waits : s.host.head? = none ∨ s.host.head? = some .idle →
      ∃ t', step (withBuf b s) = .next t' ∧ SameOrHidden b t t' := by
    intro ho
    rw [step_of_idle_turn hq hr ho hst] at h
    cases h
    exact ⟨_, step_of_idle_turn (s := withBuf b s) hq hr ho hst, .inr ⟨hs, rfl⟩⟩
  rcases ho : s.host.head? with _ | op
  · exact waits (.inl ho)
  cases op with
  | idle => exact waits (.inr ho)
  | awaitResult =>
    rw [step_of_wait_over hq hr ho hst] at h
    cases h
    exact ⟨_, step_of_wait_over (s := withBuf b s) hq hr ho hst, takeResult_withBuf b hs⟩
  | result =>
    rw [step_of_result hq hr ho] at h
    cases h
    exact ⟨_, step_of_result (s := withBuf b s) hq hr ho, takeResult_withBuf b hs⟩
  | submit c =>
    rw [step_of_submit hq hr ho] at h
    cases h
    exact ⟨_, step_of_submit (s := withBuf b s) hq hr ho, submit_withBuf b c hst⟩
  | command c =>
    rw [step_of_command hq hr ho] at h
    cases h
    exact ⟨_, step_of_command (s := withBuf b s) hq hr ho, issueCommand_withBuf b c hst⟩
  | call dir bytes =>
    have hdraws : (withBuf b s).draws = s.draws := rfl
    rw [step_of_call hq hr ho] at h
    rw [step_of_call (s := withBuf b s) hq hr ho, hdraws]
    cases ha : adapt dir bytes (freeBuffer s.draws) with
    | none =>
      rw [ha] at h
      cases h
      exact ⟨_, rfl, .inr ⟨hs, rfl⟩⟩
    | some c =>
      rw [ha] at h
      cases h
      exact ⟨_, rfl, issueCommand_withBuf b c hst⟩

/-- A run from a state with a hidden buffer: the two runs become one when the buffer is written. -/
theorem run_withBuf (b : Buffer) (k : Nat) {s t : State} (hs : BufHidden s)
    (h : run k s = .next t) :
    ∃ t', run k (withBuf b s) = .next t' ∧ SameOrHidden b t t' := by
  induction k generalizing s with
  | zero =>
    cases h
    exact ⟨_, rfl, .inr ⟨hs, rfl⟩⟩
  | succ k ih =>
    rw [Nat.add_comm] at h ⊢
    cases hu : step s with
    | next u =>
      rw [run_add_of_next ((run_one s).trans hu)] at h
      obtain ⟨u', hu', hrel⟩ := step_withBuf b hs hu
      rw [run_add_of_next ((run_one _).trans hu')]
      rcases hrel with rfl | ⟨hhid, rfl⟩
      · exact ⟨t, h, .inl rfl⟩
      · exact ih hhid h
    | fault r => cases r
    | refused r =>
      rw [Nat.add_comm, run, hu] at h
      cases h

end Sys2Proof.Machine
end

section
/-! PROOFS. The obligations of the state rules (R11 to R17, R19, R21). -/

namespace Sys2Proof.Machine

/-- Settles O25, by the five things a step can be. -/
theorem everyStepKeepsTheControlInvariant : Obligations.EveryStepKeepsTheControlInvariant :=
  fun _ _ => step_controlOk

/-- Settles O44, by induction on the length of the run: the two states differ in a hidden buffer
until one and the same buffer is written into both. -/
theorem unspecifiedBufferIsNotObservable : Obligations.UnspecifiedBufferIsNotObservable := by
  refine ⟨⟨rfl, rfl, rfl⟩, fun s t b k hs h => ?_⟩
  obtain ⟨t', hrun, hrel⟩ := run_withBuf b k hs h
  exact ⟨t', hrun, hrel.observed⟩

/-- Settles O45: of the five things a step can be, three write the buffer. -/
theorem bufferIsWrittenOnlyBySubmitAndEngine :
    Obligations.BufferIsWrittenOnlyBySubmitAndEngine := by
  intro s t h hne
  cases step_effect h with
  | reset hr ht => exact .inl hr
  | load c ha hn hb hd hq hst hp => exact .inr (.inl ⟨c, ha, hn, hb⟩)
  | shape c ha hn hb hd hq hst hp => exact absurd hb hne
  | engine hl hst hq ht => exact .inr (.inr ⟨hl, hst, by simp [ht]⟩)
  | kept hr hk hp =>
    obtain ⟨hb, -, -, -⟩ := hk
    exact absurd hb hne

/-- Settles O46: the writers by the five things a step can be, the values by the control
invariant. -/
theorem sequencerIsWrittenOnlyByItsThreeWriters :
    Obligations.SequencerIsWrittenOnlyByItsThreeWriters := by
  intro s t h
  constructor
  · cases step_effect h with
    | reset hr ht => exact .inl ⟨hr, by simp [ht]⟩
    | load c ha hn hb hd hq hst hp => exact .inr (.inl ⟨c, ha, hn, hq⟩)
    | shape c ha hn hb hd hq hst hp => exact .inr (.inr (.inr hq))
    | engine hl hst hq ht =>
      have hsucc : t.seq = s.seq + 1 := by simp [ht]
      exact .inr (.inr (.inl ⟨hl, hst, hq, by rw [hsucc, seq_add_one_toNat hq]⟩))
    | kept hr hk hp =>
      obtain ⟨-, -, -, hseq⟩ := hk
      exact .inr (.inr (.inr hseq))
  · intro hs
    have ht : t.controlOk = true := step_controlOk hs h
    refine ⟨seq_ne_seven_of_controlOk ht, fun hrun => ?_,
      fun hdone => (controlOk_of_done hdone).mp ht⟩
    have hle : t.seq.toNat ≤ 5 := (controlOk_of_run hrun).mp ht
    exact ⟨hle, rfl, fetchCode_of_le hle⟩

/-- Settles O47: in `RUN` no SUBMIT is accepted, so of the writers of `DIR` only RESET is left. -/
theorem directionIsConstantInATransaction : Obligations.DirectionIsConstantInATransaction := by
  refine ⟨fun _ _ => step_dir, fun s t h hrun hr => ?_, fun s => ?_⟩
  · rcases step_dir h with ⟨hreset, -⟩ | ⟨c, ⟨-, hready, -, -⟩, -, -⟩ | hdir
    · rw [hr] at hreset
      cases hreset
    · exact absurd hrun hready
    · exact hdir
  · unfold fetchCode
    cases s.dir <;> rfl

/-- Settles O48: the transitions by the five things a step can be. -/
theorem statusFollowsTheTransitionTable : Obligations.StatusFollowsTheTransitionTable := by
  refine ⟨⟨rfl, rfl, rfl, rfl⟩, fun s t h => ?_⟩
  cases step_effect h with
  | reset hr ht => exact .inr (.inl ⟨hr, by simp [ht]⟩)
  | load c ha hn hb hd hq hst hp => exact .inr (.inr (.inl ⟨c, ha, by rw [hst, if_pos hn]⟩))
  | shape c ha hn hb hd hq hst hp => exact .inr (.inr (.inl ⟨c, ha, by rw [hst, if_neg hn]⟩))
  | engine hl hst hq ht =>
    subst ht
    by_cases h5 : s.seq = 5
    · exact .inr (.inr (.inr ⟨hl, hst, h5, by simp [h5], advance_st_of_five (by simpa using h5)⟩))
    · exact .inl (by rw [advance_st_of_ne_five (by simpa using h5), applyStage_st, turnState_st])
  | kept hr hk hp =>
    obtain ⟨-, hstatus, -, -⟩ := hk
    exact .inl hstatus

/-- Settles O55: 7 is refused at once, 6 by the Engine, and every other state has a next one. -/
theorem sequencerOutOfRangeIsRefused : Obligations.SequencerOutOfRangeIsRefused := by
  refine ⟨fun _ => step_of_seven, fun _ => step_of_six, fun s r h => ?_,
    fun _ _ h => ⟨seq_ne_seven_of_step h, step_seq_ne_seven h⟩⟩
  by_contra hno
  obtain ⟨hq, hsix⟩ := not_or.mp hno
  obtain ⟨t, ht⟩ := step_next_of_seq_legal hq hsix
  rw [ht] at h
  cases h

/-- Settles O15: the literals as printed, and the two parts of the joined table. -/
theorem constantTablesHoldTheLiterals : Obligations.ConstantTablesHoldTheLiterals :=
  ⟨rfl, rfl, rfl, rfl, fun _ h => Vector.getElem_append_left h,
    fun j h => by simp [tableA, Vector.getElem_append_right (show 16 + j < 16 + 3 by omega)]⟩

/-- Settles O17: the rows as printed, each code decoded. -/
theorem microProgramRowsDecode : Obligations.MicroProgramRowsDecode :=
  ⟨rfl, rfl, rfl, rfl⟩

/-- Settles O24: each value, and the invariant, is read off the literal state. -/
theorem resetMeetsTheControlInvariant : Obligations.ResetMeetsTheControlInvariant :=
  ⟨rfl, rfl, rfl, rfl⟩

end Sys2Proof.Machine
end

section
/-! PROOFS. The software adapter (R41), the lane-local stages (R31, R70, R159) and the packed word
of the informative binding (R33). -/

namespace Sys2Proof.Machine

/-! ## The adapter -/

/-- A length that fits `n` becomes a command (R41). -/
theorem adapt_of_lt {bytes : List Byte} (dir : Direction) (pad : Buffer)
    (h : bytes.length < 256) :
    adapt dir bytes pad = some
      { dir := dir.code
        n := BitVec.ofNat 8 bytes.length
        d := Vector.ofFn fun i : Fin 19 => (bytes[i.val]?).getD pad[i] } :=
  if_pos h

/-- A longer buffer has no command (R41). -/
theorem adapt_of_ge {bytes : List Byte} (dir : Direction) (pad : Buffer)
    (h : 256 ≤ bytes.length) : adapt dir bytes pad = none :=
  if_neg (Nat.not_lt.mpr h)

/-- A software call with a buffer that has no command: the adapter replies ShapeError (R41, log
entry 11). -/
theorem step_of_long_call {s : State} {dir : Direction} {bytes : List Byte}
    {rest : List HostOp} (hq : s.seq ≠ 7) (hr : resetRequested s = false)
    (hh : s.host = .call dir bytes :: rest) (hlen : 256 ≤ bytes.length) :
    step s = .next (deliver .shapeError (popHost (popResetLine s))) := by
  have hhead : s.host.head? = some (.call dir bytes) := by rw [hh]; rfl
  rw [step_of_call hq hr hhead, adapt_of_ge _ _ hlen]

/-- Two malformed SUBMITs have one effect, whatever they carry (R111). -/
theorem submit_malformed_congr {c c' : Command} (s : State) (hn : c.n ≠ 19) (hn' : c'.n ≠ 19) :
    submit c s = submit c' s := by
  by_cases hrun : s.st = .run
  · rw [submit_of_run hrun, submit_of_run hrun]
  · rw [submit_of_malformed hrun hn, submit_of_malformed hrun hn']

/-! ## Lane-local stages -/

/-- Lane `l` of the result depends on lane `l` of the old buffer only (R31, R70). -/
def LaneLocal (f : Buffer → Buffer) : Prop :=
  ∀ (b b' : Buffer) (l : Nat) (_ : l < 19), b[l] = b'[l] → (f b)[l] = (f b')[l]

/-- A stage that computes each lane from that lane alone keeps the lanes apart. -/
theorem laneLocal_of_getElem {f : Buffer → Buffer} (g : (l : Nat) → l < 19 → Byte → Byte)
    (hf : ∀ (b : Buffer) (l : Nat) (hl : l < 19), (f b)[l] = g l hl b[l]) : LaneLocal f := by
  intro b b' l hl h
  rw [hf b l hl, hf b' l hl, h]

theorem laneLocal_indexedRotate : LaneLocal indexedRotate :=
  laneLocal_of_getElem (fun l _ x => (tableRD l).apply x tableSH[l]) indexedRotate_getElem

theorem laneLocal_undoIndexedRotate : LaneLocal undoIndexedRotate :=
  laneLocal_of_getElem (fun l _ x => (tableRD l).opposite.apply x tableSH[l])
    undoIndexedRotate_getElem

theorem laneLocal_constantAdd : LaneLocal constantAdd :=
  laneLocal_of_getElem (fun l _ x => add8 x tableA[l]) constantAdd_getElem

theorem laneLocal_undoConstantAdd : LaneLocal undoConstantAdd :=
  laneLocal_of_getElem (fun l _ x => sub8 x tableA[l]) undoConstantAdd_getElem

theorem laneLocal_nibbleSwap : LaneLocal nibbleSwap :=
  laneLocal_of_getElem (fun _ _ x => swap4 x) nibbleSwap_getElem

/-- A lane of the block takes its own key byte, a lane of the tail is kept (R72). -/
theorem laneLocal_blockXor : LaneLocal blockXor := by
  intro b b' l hl h
  by_cases hblock : l < 16
  · rw [blockXor_getElem b l hblock, blockXor_getElem b' l hblock, h]
  · have htail : 16 ≤ l := by omega
    rw [blockXor_getElem_tail b l hl htail, blockXor_getElem_tail b' l hl htail, h]

/-- The lane-local micro-operations: each applies a stage function that keeps the lanes apart
(R159). -/
theorem exec_laneLocal {i : Instr}
    (hi : i ∈ [Instr.bxrF, .irtF, .cadF, .nswF, .bxrI, .irtI, .cadI, .nswI]) :
    ∃ f, LaneLocal f ∧ ∀ s, exec i s = .next (applyStage f s) := by
  simp only [List.mem_cons, List.not_mem_nil, or_false] at hi
  rcases hi with rfl | rfl | rfl | rfl | rfl | rfl | rfl | rfl
  · exact ⟨blockXor, laneLocal_blockXor, exec_bxrF⟩
  · exact ⟨indexedRotate, laneLocal_indexedRotate, exec_irtF⟩
  · exact ⟨constantAdd, laneLocal_constantAdd, exec_cadF⟩
  · exact ⟨nibbleSwap, laneLocal_nibbleSwap, exec_nswF⟩
  · exact ⟨undoBlockXor, undoBlockXor_eq ▸ laneLocal_blockXor, exec_bxrI⟩
  · exact ⟨undoIndexedRotate, laneLocal_undoIndexedRotate, exec_irtI⟩
  · exact ⟨undoConstantAdd, laneLocal_undoConstantAdd, exec_cadI⟩
  · exact ⟨undoNibbleSwap, undoNibbleSwap_eq ▸ laneLocal_nibbleSwap, exec_nswI⟩

/-! ## The packed word -/

/-- Packing for a byte list of any length, for the induction along the list. -/
def packBytes (bytes : List Byte) : BitVec 152 :=
  bytes.foldr (fun byte acc => (acc <<< 8) ||| byte.setWidth 152) 0

theorem packBytes_cons (x : Byte) (xs : List Byte) :
    packBytes (x :: xs) = (packBytes xs <<< 8) ||| x.setWidth 152 := rfl

theorem packBuffer_eq_packBytes (b : Buffer) : packBuffer b = packBytes b.toList := rfl

/-- Packing puts a byte below the bytes that follow it: bit `j` of byte `i` is bit `8i + j` of the
word, as far as the word reaches (R33). -/
theorem getLsbD_packBytes (bytes : List Byte) (i j : Nat) (hi : i < bytes.length) (hw : i < 19)
    (hj : j < 8) :
    (packBytes bytes).getLsbD (8 * i + j) = bytes[i].getLsbD j := by
  induction bytes generalizing i with
  | nil => cases hi
  | cons x xs ih =>
    rw [packBytes_cons, BitVec.getLsbD_or, BitVec.getLsbD_shiftLeft, BitVec.getLsbD_setWidth]
    cases i with
    | zero =>
      have hbit : j < 152 := by omega
      simp [hj, hbit]
    | succ i =>
      have hrest := ih i (Nat.lt_of_succ_lt_succ hi) (by omega)
      have habove : x.getLsbD (8 * (i + 1) + j) = false := BitVec.getLsbD_of_ge _ _ (by omega)
      have hbit : 8 * (i + 1) + j < 152 := by omega
      have hshift : 8 * (i + 1) + j - 8 = 8 * i + j := by omega
      have hnot : ¬ 8 * (i + 1) + j < 8 := by omega
      simp [habove, hbit, hshift, hnot, hrest]

/-- Byte `i` of the packed word (R33). -/
theorem packBuffer_extractLsb' (b : Buffer) (i : Nat) (hi : i < 19) :
    (packBuffer b).extractLsb' (8 * i) 8 = b[i] := by
  apply BitVec.eq_of_getLsbD_eq
  intro j hj
  have hlen : i < b.toList.length := by rwa [Vector.length_toList]
  rw [BitVec.getLsbD_extractLsb', packBuffer_eq_packBytes,
    getLsbD_packBytes b.toList i j hlen hi hj, Vector.getElem_toList]
  simp [hj]

theorem unpackBuffer_getElem (w : BitVec 152) (i : Nat) (hi : i < 19) :
    (unpackBuffer w)[i] = w.extractLsb' (8 * i) 8 := by
  simp [unpackBuffer]

/-- Two words with the same nineteen bytes are one word. -/
theorem word_eq_of_bytes_eq {w w' : BitVec 152}
    (h : ∀ i < 19, w.extractLsb' (8 * i) 8 = w'.extractLsb' (8 * i) 8) : w = w' := by
  apply BitVec.eq_of_getLsbD_eq
  intro k hk
  have hbyte := congrArg (fun byte : Byte => byte.getLsbD (k % 8)) (h (k / 8) (by omega))
  have hlt : k % 8 < 8 := Nat.mod_lt _ (by decide)
  simpa [BitVec.getLsbD_extractLsb', hlt, Nat.div_add_mod] using hbyte

theorem unpackBuffer_packBuffer (b : Buffer) : unpackBuffer (packBuffer b) = b := by
  apply Vector.ext
  intro i hi
  rw [unpackBuffer_getElem _ i hi, packBuffer_extractLsb' b i hi]

theorem packBuffer_unpackBuffer (w : BitVec 152) : packBuffer (unpackBuffer w) = w := by
  apply word_eq_of_bytes_eq
  intro i hi
  rw [packBuffer_extractLsb' _ i hi, unpackBuffer_getElem w i hi]

end Sys2Proof.Machine
end

section
/-! PROOFS. The obligations of the storage rules (R31, R33, R41). -/

namespace Sys2Proof.Machine

/-- Settles O32: a short buffer's command field by field, a long one's step, and SUBMITs that both
end in ShapeError or are both turned away. -/
theorem adapterBuildsTheCommand : Obligations.AdapterBuildsTheCommand := by
  refine ⟨fun dir bytes pad hlen => ?_, fun s dir bytes rest hq hr hh hlen => ?_,
    fun s _ _ _ _ _ hn => submit_malformed_congr s hn hn⟩
  · refine ⟨_, adapt_of_lt dir pad hlen, Direction.ofCode_code dir, ?_, fun i hi hb => ?_⟩
    · exact Nat.mod_eq_of_lt hlen
    · simp [hb]
  · have hkept : EngineKept s (deliver .shapeError (popHost (popResetLine s))) :=
      ⟨rfl, rfl, rfl, rfl⟩
    exact ⟨_, step_of_long_call hq hr hh hlen, hkept, rfl, by simp [hh]⟩

/-- Settles O52: each of the eight micro-operations applies a stage function that keeps the lanes
apart. -/
theorem laneLocalStagesKeepLanesApart : Obligations.LaneLocalStagesKeepLanesApart := by
  intro i hi s s' t t' l hl h h' hlane
  obtain ⟨f, hlocal, hexec⟩ := exec_laneLocal hi
  rw [hexec] at h h'
  rw [← next_injective h, ← next_injective h']
  exact hlocal s.buf s'.buf l hl hlane

/-- Settles O53: the bytes of a packed word are the buffer's, and a word is determined by its
bytes. -/
theorem packedWordHoldsEveryByte : Obligations.PackedWordHoldsEveryByte :=
  ⟨packBuffer_extractLsb', unpackBuffer_packBuffer, packBuffer_unpackBuffer⟩

end Sys2Proof.Machine
end

section
/-! PROOFS. The decoder and the encoder (R50 to R53) and the reserved codes (R55). -/

namespace Sys2Proof

/-! ## The fields of a micro-operation's code -/

/-- A field `stg` that names a stage is the number of that stage (R50). -/
theorem Stage.number_of_ofNumber {stg : BitVec 3} {stage : Stage}
    (h : Stage.ofNumber stg = some stage) : stage.number = stg := by
  revert stg; cases stage <;> decide

/-- A code is its bit `inv` above its field `stg` (R50). -/
theorem UCode.inv_append_stg (code : UCode) : UCode.inv code ++ UCode.stg code = code := by
  revert code; decide

/-- A code whose field `stg` names a stage is built from its own two fields. -/
theorem UCode.ofFields_of_stg {code : UCode} {stage : Stage}
    (h : Stage.ofNumber (UCode.stg code) = some stage) :
    UCode.ofFields stage (Direction.ofCode (UCode.inv code)) = code := by
  rw [UCode.ofFields, Direction.code_ofCode, Stage.number_of_ofNumber h, UCode.inv_append_stg]

/-- Four codes have a stage number that names no stage (R55). -/
theorem Stage.ofNumber_stg_eq_none_iff (code : UCode) :
    Stage.ofNumber (UCode.stg code) = none ↔
      code = 0x0 ∨ code = 0x7 ∨ code = 0x8 ∨ code = 0xf := by
  revert code; decide

/-! ## The decoder -/

theorem decodeU_of_none {code : UCode} (h : Stage.ofNumber (UCode.stg code) = none) :
    decodeU code = .reserved code := by
  rw [decodeU, h]

theorem decodeU_of_some {code : UCode} {stage : Stage}
    (h : Stage.ofNumber (UCode.stg code) = some stage) :
    decodeU code = .instr (Instr.ofStage stage (Direction.ofCode (UCode.inv code))) := by
  rw [decodeU, h]

/-- The reserved codes (R55). -/
theorem decodeU_eq_reserved_iff (code : UCode) :
    decodeU code = .reserved code ↔ code = 0x0 ∨ code = 0x7 ∨ code = 0x8 ∨ code = 0xf := by
  rw [← Stage.ofNumber_stg_eq_none_iff]
  cases h : Stage.ofNumber (UCode.stg code) with
  | none => simp [decodeU_of_none h]
  | some stage => simp [decodeU_of_some h]

/-! ## Decoding and encoding -/

/-- Every instruction is encoded in one of the two formats. -/
theorem encodingFormat (i : Instr) : Laws.EncodingFormat.Statement i := by
  cases i with
  | xswF => exact Laws.EncodingFormat.xswF
  | bxrF => exact Laws.EncodingFormat.bxrF
  | brvF => exact Laws.EncodingFormat.brvF
  | irtF => exact Laws.EncodingFormat.irtF
  | cadF => exact Laws.EncodingFormat.cadF
  | nswF => exact Laws.EncodingFormat.nswF
  | xswI => exact Laws.EncodingFormat.xswI
  | bxrI => exact Laws.EncodingFormat.bxrI
  | brvI => exact Laws.EncodingFormat.brvI
  | irtI => exact Laws.EncodingFormat.irtI
  | cadI => exact Laws.EncodingFormat.cadI
  | nswI => exact Laws.EncodingFormat.nswI
  | forward n d => exact Laws.EncodingFormat.forward n d
  | invert n d => exact Laws.EncodingFormat.invert n d

/-- The decoder reads an encoded instruction back, operands included. -/
theorem decode_encode (i : Instr) : decode (encode i) = .instr i := by
  rcases encodingFormat i with ⟨stage, dir, rfl, -, hcode, -⟩ | ⟨c, hcode, hdec, -⟩
  · rw [hcode]
    exact decodeU_ofFields stage dir
  · rw [hcode, decode, hdec]

/-- A micro-operation's code is built from its stage and its direction (R51). -/
theorem encode_ofStage (stage : Stage) (dir : Direction) :
    encode (Instr.ofStage stage dir) = .u (UCode.ofFields stage dir) := by
  cases stage <;> cases dir <;> rfl

/-- The encoder gives a decoded command its own three fields (R52). -/
theorem encode_decodeCommand (c : Command) : encode (decodeCommand c) = .cmd c := by
  obtain ⟨dir, n, d⟩ := c
  rcases BitVec.eq_zero_or_eq_one dir with rfl | rfl <;> rfl

/-- No two codes decode to one instruction: the code is the encoding of what it decodes to. -/
theorem encode_of_decode {c : Code} {i : Instr} (h : decode c = .instr i) : encode i = c := by
  cases c with
  | u code =>
    change decodeU code = .instr i at h
    cases hs : Stage.ofNumber (UCode.stg code) with
    | none =>
      rw [decodeU_of_none hs] at h
      cases h
    | some stage =>
      rw [decodeU_of_some hs] at h
      cases h
      rw [encode_ofStage, UCode.ofFields_of_stg hs]
  | cmd c =>
    cases h
    exact encode_decodeCommand c

end Sys2Proof

namespace Sys2Proof.Machine

/-! ## Reserved codes in the machine -/

/-- The executor refuses a reserved code (R55). -/
theorem execCode_of_reserved {code : UCode} (h : decodeU code = .reserved code) (s : State) :
    execCode code s = .refused (.reservedCode code) := by
  rw [execCode, h]

/-- An entry of the micro-program is not reserved (R19, R55). -/
theorem decodeU_ne_reserved_of_mem_tableUROM (dir : Direction) :
    ∀ code ∈ (tableUROM dir).toList, decodeU code ≠ .reserved code := by
  cases dir <;> decide

/-- A refused step is refused for its `SEQ`, never for a reserved code (R12, R55). -/
theorem step_ne_refused_reservedCode (s : State) (code : UCode) :
    step s ≠ .refused (.reservedCode code) := by
  intro h
  obtain ⟨-, -, hrefused, -⟩ := sequencerOutOfRangeIsRefused
  rcases hrefused s _ h with hseven | ⟨hl, hst, hsix⟩
  · rw [step_of_seven hseven] at h
    cases h
  · rw [step_of_six hl hst hsix] at h
    cases h

end Sys2Proof.Machine
end

section
/-! PROOFS. The obligations of the encoding rules (R50 to R55). -/

namespace Sys2Proof.Machine

/-- Settles O19: decoding an encoded instruction gives it back, and a code is the encoding of what
it decodes to. -/
theorem decodeAndEncodeAgree : Obligations.DecodeAndEncodeAgree := by
  intro c i
  refine ⟨encode_of_decode, ?_⟩
  rintro rfl
  exact decode_encode i

/-- Settles O20: the reserved codes are those whose stage number names no stage; the micro-program
holds none, so a step that is refused is refused for its `SEQ`. -/
theorem reservedCodesAreRefused : Obligations.ReservedCodesAreRefused :=
  ⟨decodeU_eq_reserved_iff, decodeU_ne_reserved_of_mem_tableUROM,
    fun _ s h => execCode_of_reserved h s, step_ne_refused_reservedCode,
    fun c => ⟨decodeCommand c, rfl⟩⟩

/-- Settles O18: each of the twelve codes is built from a stage and a direction, and the four others
are the reserved ones. -/
theorem decodedWordsAreTheTables : Obligations.DecodedWordsAreTheTables := by
  refine ⟨decodeU_ofFields .xorSwap .forward, decodeU_ofFields .blockXor .forward,
    decodeU_ofFields .blockReverse .forward, decodeU_ofFields .indexedRotate .forward,
    decodeU_ofFields .constantAdd .forward, decodeU_ofFields .nibbleSwap .forward,
    decodeU_ofFields .xorSwap .inverse, decodeU_ofFields .blockXor .inverse,
    decodeU_ofFields .blockReverse .inverse, decodeU_ofFields .indexedRotate .inverse,
    decodeU_ofFields .constantAdd .inverse, decodeU_ofFields .nibbleSwap .inverse,
    fun code hcode => (decodeU_eq_reserved_iff code).mpr ?_, fun _ _ => ⟨rfl, rfl⟩⟩
  simpa using hcode

end Sys2Proof.Machine
end

section
/-! PROOFS. The forward stages (R71 to R76): the remapping form of XSW.F, stages applied twice, and
the bytes and buffers that a stage fixes or makes known. -/

namespace Sys2Proof.Machine

/-! ## A stage applied to the state -/

/-- A stage leaves every field but `BUF` as it was (R35, R70). -/
theorem applyStage_onlyBufChanges (f : Buffer → Buffer) (s : State) :
    OnlyBufChanges s (applyStage f s) := rfl

/-- A stage that is its own inverse gives the first state back when it is applied again. -/
theorem applyStage_twice {f : Buffer → Buffer} (hf : ∀ b, f (f b) = b) (s : State) :
    applyStage f (applyStage f s) = s := by
  rw [applyStage_applyStage, applyStage_of_fixed (hf s.buf)]

/-- A stage that keeps the lanes 16, 17 and 18 keeps the tail. -/
theorem applyStage_tailKept {f : Buffer → Buffer}
    (hf : ∀ (b : Buffer) (i : Nat) (_ : i < 19), 16 ≤ i → (f b)[i] = b[i]) (s : State) :
    TailKept s (applyStage f s) :=
  ⟨hf s.buf 16 (by omega) (by omega), hf s.buf 17 (by omega) (by omega),
    hf s.buf 18 (by omega) (by omega)⟩

/-! ## The remapping form of XSW.F -/

/-- The three XOR-ed positions go to the tail, reversed (R71). -/
theorem sigma_of_lt {p : Fin 19} (h : p.val < 3) : (sigma p).val = 18 - p.val := by
  simp [sigma, h]

/-- The other positions move down by three (R71). -/
theorem sigma_of_ge {p : Fin 19} (h : 3 ≤ p.val) : (sigma p).val = p.val - 3 := by
  simp [sigma, Nat.not_lt.mpr h]

/-- The images of the first three positions lie above those of the others, and on neither side do
two positions meet. -/
theorem sigma_injective : Function.Injective sigma := by
  intro p q heq
  have hval : (sigma p).val = (sigma q).val := congrArg Fin.val heq
  apply Fin.ext
  rcases Nat.lt_or_ge p.val 3 with hp | hp <;> rcases Nat.lt_or_ge q.val 3 with hq | hq
  · rw [sigma_of_lt hp, sigma_of_lt hq] at hval; omega
  · rw [sigma_of_lt hp, sigma_of_ge hq] at hval; omega
  · rw [sigma_of_ge hp, sigma_of_lt hq] at hval; omega
  · rw [sigma_of_ge hp, sigma_of_ge hq] at hval; omega

theorem sigma_bijective : Function.Bijective sigma :=
  Finite.injective_iff_bijective.mp sigma_injective

/-- The mask of an XOR-ed position is its constant (R15, R71). -/
theorem sigmaMask_of_lt : ∀ (p : Fin 19) (h : p.val < 3), sigmaMask p = tableX[p.val] := by decide

/-- The other positions are not masked (R71). -/
theorem sigmaMask_of_ge : ∀ p : Fin 19, 3 ≤ p.val → sigmaMask p = 0 := by decide

theorem xor8_zero (a : Byte) : xor8 a 0 = a := BitVec.xor_zero

/-- XSW.F moves old position `p`, masked, to `sigma p` (R71). -/
theorem xorSwap_getElem_sigma (b : Buffer) (p : Fin 19) :
    (xorSwap b)[sigma p] = xor8 b[p] (sigmaMask p) := by
  simp only [Fin.getElem_fin]
  rcases Nat.lt_or_ge p.val 3 with h | h
  · simp only [sigma_of_lt h, sigmaMask_of_lt p h, xorSwap_getElem_tail b p.val h]
  · have hback : p.val - 3 + 3 = p.val := by omega
    simp only [sigma_of_ge h, sigmaMask_of_ge p h, xor8_zero,
      xorSwap_getElem_block b (p.val - 3) (by omega), hback]

/-- Position 0 takes position 3, which took position 6: XSW.F is not its own inverse (R71). -/
theorem xorSwap_xorSwap_getElem_zero (b : Buffer) : (xorSwap (xorSwap b))[0] = b[6] := by
  rw [xorSwap_getElem_block _ 0 (by omega), xorSwap_getElem_block b 3 (by omega)]

/-! ## Bytes and buffers with a known result -/

/-- Keying a zero byte of the block leaves the key byte (R72). -/
theorem blockXor_getElem_of_zero {b : Buffer} {j : Nat} (hj : j < 16) (h : b[j] = 0) :
    (blockXor b)[j] = tableK[j] := by
  rw [blockXor_getElem b j hj, h]
  exact BitVec.zero_xor

/-- The direction of a lane by its parity (R18, R74). -/
theorem tableRD_apply (i : Nat) (b : Byte) (sh : BitVec 3) :
    (tableRD i).apply b sh = if i % 2 = 0 then rol8 b sh else ror8 b sh := by
  unfold tableRD
  split <;> rfl

/-- No rotation changes a byte of eight equal bits (R74). -/
theorem Rotation.apply_of_uniform (r : Rotation) {b : Byte} (sh : BitVec 3)
    (h : b = 0x00 ∨ b = 0xff) : r.apply b sh = b := by
  rcases h with rfl | rfl
  · revert sh; cases r <;> decide
  · revert sh; cases r <;> decide

/-- Adding the table to a zero buffer leaves the table (R75). -/
theorem constantAdd_zero : constantAdd (Vector.replicate 19 0) = tableA := by
  apply Vector.ext
  intro i hi
  rw [constantAdd_getElem _ i hi, Vector.getElem_replicate, add8_eq]
  exact BitVec.zero_add _

/-- A byte with two equal nibbles is its own nibble swap (R76). -/
theorem swap4_of_equal_nibbles {b : Byte} (h : b.toNat / 16 = b.toNat % 16) : swap4 b = b := by
  apply BitVec.eq_of_toNat_eq
  rw [swap4_toNat]
  omega

/-- FORWARD takes what INVERT gave back to where it came from (R98). -/
theorem forwardSequence_of_invertSequence_eq {f y : Buffer} (h : invertSequence f = y) :
    forwardSequence y = f := by
  rw [← h, forwardSequence_invertSequence]

end Sys2Proof.Machine
end

section
/-! PROOFS. The obligations of the forward stages (R71 to R77). -/

namespace Sys2Proof.Machine

/-- Settles O1: the lanes of block and tail, the remapping form by where `sigma` sends a position,
and old position 6 followed through two applications. -/
theorem xorSwapForwardMovesAndMasks : Obligations.XorSwapForwardMovesAndMasks := by
  refine ⟨decodeU_ofFields .xorSwap .forward, sigma_bijective, fun s =>
    ⟨_, exec_xswF s, applyStage_onlyBufChanges xorSwap s, xorSwap_getElem_block s.buf,
      xorSwap_getElem_tail s.buf 2 (by omega), xorSwap_getElem_tail s.buf 1 (by omega),
      xorSwap_getElem_tail s.buf 0 (by omega), xorSwap_getElem_sigma s.buf, fun u hu => ?_,
      fun hramp => ?_⟩⟩
  · rw [exec_xswF] at hu
    rw [← next_injective hu]
    exact xorSwap_xorSwap_getElem_zero s.buf
  · rw [applyStage_buf, hramp]
    decide

/-- Settles O2: each lane of the block keyed by its own byte of `K`, and the same key twice
cancels. -/
theorem blockXorForwardKeysTheBlock : Obligations.BlockXorForwardKeysTheBlock := by
  refine ⟨decodeU_ofFields .blockXor .forward, fun s =>
    ⟨_, exec_bxrF s, applyStage_onlyBufChanges blockXor s,
      applyStage_tailKept blockXor_getElem_tail s, blockXor_getElem s.buf, ?_,
      fun hzero j hj => blockXor_getElem_of_zero hj (hzero j hj), fun hexample => ?_⟩⟩
  · rw [exec_bxrF, applyStage_twice blockXor_blockXor]
  · rw [applyStage_buf, hexample]
    decide

/-- Settles O3: lane `j` takes lane `15 - j`, which is never `j`, and the reversal of the reversal
is the identity. -/
theorem blockReverseForwardReversesBytes : Obligations.BlockReverseForwardReversesBytes := by
  refine ⟨decodeU_ofFields .blockReverse .forward, fun s =>
    ⟨_, exec_brvF s, applyStage_onlyBufChanges blockReverse s,
      applyStage_tailKept blockReverse_getElem_tail s, blockReverse_getElem s.buf,
      blockReverse_getElem s.buf 7 (by omega), blockReverse_getElem s.buf 8 (by omega),
      fun j _ => by omega, ?_, fun hexample => ?_⟩⟩
  · rw [exec_brvF, applyStage_twice blockReverse_blockReverse]
  · rw [applyStage_buf, hexample]
    decide

/-- Settles O4: the parity of a lane gives its direction, the shift formula bounds its amount, and a
byte of equal bits is fixed by every rotation. -/
theorem indexedRotateForwardRotatesLanes : Obligations.IndexedRotateForwardRotatesLanes := by
  refine ⟨decodeU_ofFields .indexedRotate .forward, fun s =>
    ⟨_, exec_irtF s, applyStage_onlyBufChanges indexedRotate s, fun i hi => ?_, fun i hi => ?_,
      fun i hi huniform => ?_, fun hexample => ?_⟩⟩
  · rw [applyStage_buf, indexedRotate_getElem s.buf i hi, tableRD_apply]
  · rw [tableSH_toNat i hi]
    exact shift_range i
  · rw [applyStage_buf, indexedRotate_getElem s.buf i hi, Rotation.apply_of_uniform _ _ huniform]
  · rw [applyStage_buf, hexample]
    decide

/-- Settles O5: each lane is a sum modulo 256 of its own byte and its own constant. -/
theorem constantAddForwardAddsModulo256 : Obligations.ConstantAddForwardAddsModulo256 := by
  refine ⟨decodeU_ofFields .constantAdd .forward, fun s =>
    ⟨_, exec_cadF s, applyStage_onlyBufChanges constantAdd s, fun i hi => ?_, rfl, rfl, rfl,
      fun hzero => ?_, fun hexample => ?_⟩⟩
  · rw [applyStage_buf, constantAdd_getElem s.buf i hi, add8_toNat]
  · rw [applyStage_buf, hzero, constantAdd_zero]
  · rw [applyStage_buf, hexample]
    decide

/-- Settles O6: every lane is the nibble swap, which is the byte formula, the rotation by 4, its own
inverse, and the identity on equal nibbles. -/
theorem nibbleSwapForwardSwapsNibbles : Obligations.NibbleSwapForwardSwapsNibbles := by
  refine ⟨decodeU_ofFields .nibbleSwap .forward, fun s =>
    ⟨_, exec_nswF s, applyStage_onlyBufChanges nibbleSwap s, fun i hi => ?_, fun i hi _ => ?_,
      nibbleSwap_getElem s.buf, fun i hi hequal => ?_, ?_, fun hramp => ?_⟩⟩
  · rw [applyStage_buf, nibbleSwap_getElem s.buf i (by omega), swap4_eq_byte_formula]
  · rw [applyStage_buf, nibbleSwap_getElem s.buf i hi, rol8_four]
  · rw [applyStage_buf, nibbleSwap_getElem s.buf i hi, swap4_of_equal_nibbles hequal]
  · rw [exec_nswF, applyStage_twice nibbleSwap_nibbleSwap]
  · rw [applyStage_buf, hramp]
    decide

/-- Settles O54: INVERT of the literal is computed, and FORWARD undoes INVERT. -/
theorem endToEndLiteralRoundTrips : Obligations.EndToEndLiteralRoundTrips :=
  (and_iff_left_of_imp forwardSequence_of_invertSequence_eq).mpr (by decide)

end Sys2Proof.Machine
end

section
/-! PROOFS. The inverse stages (R90 to R95): their closed forms, the two forms of a stage undoing each
other (R97), and the stages that are not involutive (R99). -/

namespace Sys2Proof.Machine

/-! ## The inverse stages lane by lane -/

/-- A difference is the sum with the two's-complement constant (R91). -/
theorem sub8_eq_add8_complement (a c : Byte) :
    sub8 a c = add8 a (BitVec.ofNat 8 ((256 - c.toNat) % 256)) := by
  have hc := c.isLt
  apply BitVec.eq_of_toNat_eq
  rw [sub8_toNat, add8_toNat, BitVec.toNat_ofNat]
  omega

/-- The opposite direction of a lane by its parity (R18, R92). -/
theorem tableRD_opposite_apply (i : Nat) (b : Byte) (sh : BitVec 3) :
    (tableRD i).opposite.apply b sh = if i % 2 = 0 then ror8 b sh else rol8 b sh := by
  unfold tableRD
  split <;> rfl

/-- XSW.I fetches position `p` from where `sigma` sends it and removes its mask: it undoes the
remapping form of XSW.F, in which the mask is its own inverse (R95). -/
theorem undoXorSwap_getElem_sigma (b : Buffer) (p : Fin 19) :
    (undoXorSwap b)[p] = xor8 b[sigma p] (sigmaMask p) := by
  calc (undoXorSwap b)[p]
      = xor8 (xor8 (undoXorSwap b)[p] (sigmaMask p)) (sigmaMask p) := (xor8_xor8 _ _).symm
    _ = xor8 (xorSwap (undoXorSwap b))[sigma p] (sigmaMask p) := by rw [xorSwap_getElem_sigma]
    _ = xor8 b[sigma p] (sigmaMask p) := by rw [xorSwap_undoXorSwap]

/-- Position 0 moves up to 3 and from there to 6: XSW.I is not its own inverse (R95). -/
theorem undoXorSwap_undoXorSwap_getElem_six (b : Buffer) :
    (undoXorSwap (undoXorSwap b))[6] = b[0] :=
  (undoXorSwap_getElem_high _ 3 (by omega)).trans (undoXorSwap_getElem_high b 0 (by omega))

/-! ## The two forms of a stage -/

/-- Two micro-operations whose stage functions undo each other restore every state, in either
order (R97). -/
theorem exec_undo_each_other {i j : Instr} {f g : Buffer → Buffer}
    (hi : ∀ s, exec i s = .next (applyStage f s)) (hj : ∀ s, exec j s = .next (applyStage g s))
    (hgf : ∀ b, g (f b) = b) (hfg : ∀ b, f (g b) = b) (s : State) :
    (∃ t, exec i s = .next t ∧ exec j t = .next s) ∧
      ∃ t, exec j s = .next t ∧ exec i t = .next s := by
  refine ⟨⟨_, hi s, ?_⟩, ⟨_, hj s, ?_⟩⟩
  · rw [hj, applyStage_applyStage, applyStage_of_fixed (hgf s.buf)]
  · rw [hi, applyStage_applyStage, applyStage_of_fixed (hfg s.buf)]

/-- BXR.I does what BXR.F does (R94). -/
theorem exec_bxrI_eq_exec_bxrF (s : State) : exec .bxrI s = exec .bxrF s := by
  rw [exec_bxrI, exec_bxrF, undoBlockXor_eq]

/-- BRV.I does what BRV.F does (R93). -/
theorem exec_brvI_eq_exec_brvF (s : State) : exec .brvI s = exec .brvF s := by
  rw [exec_brvI, exec_brvF, undoBlockReverse_eq]

/-- NSW.I does what NSW.F does (R90). -/
theorem exec_nswI_eq_exec_nswF (s : State) : exec .nswI s = exec .nswF s := by
  rw [exec_nswI, exec_nswF, undoNibbleSwap_eq]

/-- The zero buffer tells the two forms of XorSwap apart: XSW.I puts a constant into position 0,
XSW.F leaves 0 there (R95, R99). -/
theorem exec_xswI_reset_ne_exec_xswF_reset : exec .xswI State.reset ≠ exec .xswF State.reset := by
  rw [exec_xswI, exec_xswF]
  intro h
  have hbuf : undoXorSwap State.reset.buf = xorSwap State.reset.buf :=
    congrArg State.buf (next_injective h)
  exact absurd hbuf (by decide)

/-! ## Stages applied twice -/

/-- A micro-operation whose stage function is its own inverse, executed twice, restores every state
(R99). -/
theorem exec_twice_restoring {i : Instr} {f : Buffer → Buffer}
    (hi : ∀ s, exec i s = .next (applyStage f s)) (hf : ∀ b, f (f b) = b) (s : State) :
    ∃ t, exec i s = .next t ∧ exec i t = .next s :=
  ⟨_, hi s, by rw [hi, applyStage_twice hf]⟩

/-- A buffer that a stage function, applied twice, does not give back is in a state that the
micro-operation, executed twice, does not restore (R99). -/
theorem exec_twice_not_restoring {i : Instr} {f : Buffer → Buffer} {b : Buffer}
    (hi : ∀ s, exec i s = .next (applyStage f s)) (hb : f (f b) ≠ b) :
    ∃ s t u : State, exec i s = .next t ∧ exec i t = .next u ∧ u.buf ≠ s.buf :=
  ⟨{ State.reset with buf := b }, _, _, hi _, hi _, hb⟩

/-- Nineteen bytes 0x01, which XSW.F, IRT.F and CAD.F do not give back after two applications: the
masks, the rotations and the additions all change them. -/
def ones : Buffer := Vector.replicate 19 0x01

theorem xorSwap_xorSwap_ones_ne : xorSwap (xorSwap ones) ≠ ones := by decide

theorem indexedRotate_indexedRotate_ones_ne : indexedRotate (indexedRotate ones) ≠ ones := by decide

theorem constantAdd_constantAdd_ones_ne : constantAdd (constantAdd ones) ≠ ones := by decide

end Sys2Proof.Machine
end

section
/-! PROOFS. The obligations of the inverse stages (R90 to R95) and of the two functions as a whole
(R97 to R99). -/

namespace Sys2Proof.Machine

/-- Settles O7: every lane is the nibble swap, which is a rotation by 4 either way and what NSW.F
computes. -/
theorem nibbleSwapInverseSwapsNibbles : Obligations.NibbleSwapInverseSwapsNibbles := by
  refine ⟨decodeU_ofFields .nibbleSwap .inverse, fun s =>
    ⟨_, exec_nswI s, applyStage_onlyBufChanges undoNibbleSwap s, fun i hi => ?_,
      (exec_nswI_eq_exec_nswF s).symm, fun hexample => ?_⟩⟩
  · have hlane : (undoNibbleSwap s.buf)[i] = swap4 s.buf[i] := undoNibbleSwap_getElem s.buf i hi
    exact ⟨hlane, hlane.trans (rol8_four _).symm, hlane.trans (ror8_four _).symm⟩
  · rw [applyStage_buf, hexample]
    decide

/-- Settles O8: each lane is a difference modulo 256 of its own byte and its own constant, and a
difference is a sum with the complement. -/
theorem constantAddInverseSubtractsModulo256 :
    Obligations.ConstantAddInverseSubtractsModulo256 := by
  refine ⟨decodeU_ofFields .constantAdd .inverse, fun s =>
    ⟨_, exec_cadI s, applyStage_onlyBufChanges undoConstantAdd s, fun i hi => ?_, fun i hi => ?_,
      rfl, rfl, rfl, fun hexample => ?_⟩⟩
  · rw [applyStage_buf, undoConstantAdd_getElem s.buf i hi, sub8_toNat]
  · rw [applyStage_buf, undoConstantAdd_getElem s.buf i hi, sub8_eq_add8_complement]
  · rw [applyStage_buf, hexample]
    decide

/-- Settles O9: the parity of a lane gives the opposite of its forward direction, and a byte of equal
bits is fixed by every rotation. -/
theorem indexedRotateInverseRotatesBack : Obligations.IndexedRotateInverseRotatesBack := by
  refine ⟨decodeU_ofFields .indexedRotate .inverse, fun s =>
    ⟨_, exec_irtI s, applyStage_onlyBufChanges undoIndexedRotate s, fun i hi => ?_,
      fun i hi huniform => ?_, fun hexample => ?_⟩⟩
  · rw [applyStage_buf, undoIndexedRotate_getElem s.buf i hi, tableRD_opposite_apply]
  · rw [applyStage_buf, undoIndexedRotate_getElem s.buf i hi,
      Rotation.apply_of_uniform _ _ huniform]
  · rw [applyStage_buf, hexample]
    decide

/-- Settles O10: the lanes and the tail are those of BRV.F, whose function BRV.I computes. -/
theorem blockReverseInverseReversesBytes : Obligations.BlockReverseInverseReversesBytes := by
  refine ⟨decodeU_ofFields .blockReverse .inverse, fun s =>
    ⟨_, (exec_brvI_eq_exec_brvF s).trans (exec_brvF s), applyStage_onlyBufChanges blockReverse s,
      applyStage_tailKept blockReverse_getElem_tail s, blockReverse_getElem s.buf, exec_brvF s,
      fun hexample => ?_⟩⟩
  rw [applyStage_buf, hexample]
  decide

/-- Settles O11: the lanes and the tail are those of BXR.F, whose function BXR.I computes. -/
theorem blockXorInverseKeysTheBlock : Obligations.BlockXorInverseKeysTheBlock := by
  refine ⟨decodeU_ofFields .blockXor .inverse, fun s =>
    ⟨_, (exec_bxrI_eq_exec_bxrF s).trans (exec_bxrF s), applyStage_onlyBufChanges blockXor s,
      applyStage_tailKept blockXor_getElem_tail s, blockXor_getElem s.buf, exec_bxrF s,
      fun hexample => ?_⟩⟩
  rw [applyStage_buf, hexample]
  decide

/-- Settles O12: the lanes of both parts, the remapping form from that of XSW.F, the zero buffer on
which the two forms differ, and old position 0 followed through two applications. -/
theorem xorSwapInverseMovesBack : Obligations.XorSwapInverseMovesBack := by
  refine ⟨decodeU_ofFields .xorSwap .inverse, ⟨_, exec_xswI_reset_ne_exec_xswF_reset⟩, fun s =>
    ⟨_, exec_xswI s, applyStage_onlyBufChanges undoXorSwap s,
      undoXorSwap_getElem_low s.buf 0 (by omega), undoXorSwap_getElem_low s.buf 1 (by omega),
      undoXorSwap_getElem_low s.buf 2 (by omega), undoXorSwap_getElem_high s.buf,
      undoXorSwap_getElem_sigma s.buf, fun u hu => ?_, fun hexample => ?_⟩⟩
  · rw [exec_xswI] at hu
    rw [← next_injective hu]
    exact undoXorSwap_undoXorSwap_getElem_six s.buf
  · rw [applyStage_buf, hexample]
    decide

/-- Settles O49: the two stage functions of each pair undo each other. -/
theorem everyStageFormUndoesTheOther : Obligations.EveryStageFormUndoesTheOther := by
  intro p hp
  simp only [List.mem_cons, List.not_mem_nil, or_false] at hp
  rcases hp with rfl | rfl | rfl | rfl | rfl | rfl
  · exact exec_undo_each_other exec_xswF exec_xswI undoXorSwap_xorSwap xorSwap_undoXorSwap
  · exact exec_undo_each_other exec_bxrF exec_bxrI undoBlockXor_blockXor blockXor_undoBlockXor
  · exact exec_undo_each_other exec_brvF exec_brvI undoBlockReverse_blockReverse
      blockReverse_undoBlockReverse
  · exact exec_undo_each_other exec_irtF exec_irtI undoIndexedRotate_indexedRotate
      indexedRotate_undoIndexedRotate
  · exact exec_undo_each_other exec_cadF exec_cadI undoConstantAdd_constantAdd
      constantAdd_undoConstantAdd
  · exact exec_undo_each_other exec_nswF exec_nswI undoNibbleSwap_nibbleSwap
      nibbleSwap_undoNibbleSwap

/-- Settles O50: the stages of one function cancel those of the other, so a preimage under FORWARD is
what INVERT gives. -/
theorem forwardAndInvertAreMutuallyInverse : Obligations.ForwardAndInvertAreMutuallyInverse :=
  ⟨fun b => ⟨forwardSequence_invertSequence b, invertSequence_forwardSequence b⟩,
    fun _ _ => ⟨eq_invertSequence_of_forwardSequence_eq,
      fun h => forwardSequence_of_invertSequence_eq h.symm⟩⟩

/-- Settles O51: BXR, BRV and NSW compute what their inverse forms compute; XSW, IRT and CAD do not
give the buffer of ones back. -/
theorem exactlyThreeStagesAreInvolutive : Obligations.ExactlyThreeStagesAreInvolutive := by
  refine ⟨fun p hp s => ?_, fun i hi => ?_, ⟨_, exec_xswI_reset_ne_exec_xswF_reset.symm⟩,
    fun s t u hramp ht hu => ?_⟩
  · simp only [List.mem_cons, List.not_mem_nil, or_false] at hp
    rcases hp with rfl | rfl | rfl
    · exact ⟨(exec_bxrI_eq_exec_bxrF s).symm,
        exec_twice_restoring exec_bxrF blockXor_blockXor s⟩
    · exact ⟨(exec_brvI_eq_exec_brvF s).symm,
        exec_twice_restoring exec_brvF blockReverse_blockReverse s⟩
    · exact ⟨(exec_nswI_eq_exec_nswF s).symm,
        exec_twice_restoring exec_nswF nibbleSwap_nibbleSwap s⟩
  · simp only [List.mem_cons, List.not_mem_nil, or_false] at hi
    rcases hi with rfl | rfl | rfl
    · exact exec_twice_not_restoring exec_xswF xorSwap_xorSwap_ones_ne
    · exact exec_twice_not_restoring exec_irtF indexedRotate_indexedRotate_ones_ne
    · exact exec_twice_not_restoring exec_cadF constantAdd_constantAdd_ones_ne
  · rw [exec_xswF] at ht hu
    rw [← next_injective hu, ← next_injective ht, applyStage_buf, applyStage_buf, hramp]
    decide

end Sys2Proof.Machine
end

section
/-! PROOFS. The sequencer's turn in `RUN` and outside it (R113), SUBMIT and RESULT by status (R110 to
R112, R115, R116), and runs of waits and RESULTs after a SUBMIT (R114, R117 to R120). -/

namespace Sys2Proof.Machine

/-! ## The Engine's turn -/

/-- The step at the Engine's turn from an index of the row: the stage function of the entry, and the
advance (R113). -/
theorem step_of_engine_turn {s : State} (hl : LeavesTurn s) (hst : s.st = .run)
    (hq : s.seq.toNat ≤ 5) :
    step s = .next (advance (applyStage (stageAt s.dir s.seq.toNat) (turnState s))) := by
  rw [step_of_turn (seq_ne_seven_of_le hq) hl hst, engineStep_eq (by rwa [turnState_seq]),
    turnState_dir, turnState_seq]

/-- A code that is fetched stands at an index of the row (R113). -/
theorem seq_le_five_of_fetchCode {s : State} {code : UCode} (h : fetchCode s = some code) :
    s.seq.toNat ≤ 5 := by
  obtain ⟨hlt, -⟩ := Vector.getElem?_eq_some_iff.mp h
  omega

/-- What is fetched from the row decodes to its micro-operation (R19). -/
theorem decodeU_of_fetchCode {s : State} {code : UCode} (h : fetchCode s = some code) :
    decodeU code = .instr (microAt s.dir s.seq.toNat) := by
  have hfetched : (fetchCode s).map decodeU = some (.instr (microAt s.dir s.seq.toNat)) :=
    fetch_decodes s.dir s.seq (seq_le_five_of_fetchCode h)
  rw [h] at hfetched
  exact Option.some.inj hfetched

/-- RESULT changes no state of the engine (R115, R116). -/
theorem engineKept_takeResult (s : State) : EngineKept s (takeResult s) := by
  rw [takeResult_eq]
  cases s.st <;> exact ⟨rfl, rfl, rfl, rfl⟩

/-- Outside `RUN` a step that the Host leaves to the Engine keeps the engine's state (R113, log
entry 7). -/
theorem step_of_turn_outside_run {s : State} (hq : s.seq ≠ 7) (hl : LeavesTurn s)
    (hr : s.st ≠ .run) : ∃ t, step s = .next t ∧ EngineKept s t := by
  obtain ⟨h, hnone | hidle | hwait⟩ := hl
  · exact ⟨_, step_of_idle_turn hq h (.inl hnone) hr, rfl, rfl, rfl, rfl⟩
  · exact ⟨_, step_of_idle_turn hq h (.inr hidle) hr, rfl, rfl, rfl, rfl⟩
  · exact ⟨_, step_of_wait_over hq h hwait hr, engineKept_takeResult (popHost (popResetLine s))⟩

/-! ## One operation of the Host -/

/-- The state in which the Host's first operation takes effect. -/
theorem popHost_popResetLine_of_cons {s : State} {op : HostOp} {rest : List HostOp}
    (hh : s.host = op :: rest) :
    popHost (popResetLine s) = { s with host := rest, resetLine := s.resetLine.tail } := by
  simp [popHost, popResetLine, hh]

/-- RESULT where a result or an indication is available (R115, R116). -/
theorem takeResult_of_some {s : State} {r : Reply} (h : readResult s = some r) :
    takeResult s = deliver r s := by
  simp [takeResult, h]

/-- RESULT where nothing is available (R116). -/
theorem takeResult_of_none {s : State} (h : readResult s = none) : takeResult s = s := by
  simp [takeResult, h]

theorem readResult_of_done {s : State} (h : s.st = .done) :
    readResult s = some (.data s.buf) := by
  simp [readResult, h]

theorem readResult_of_err {s : State} (h : s.st = .err) : readResult s = some .shapeError := by
  simp [readResult, h]

theorem readResult_of_idle_or_run {s : State} (h : s.st = .idle ∨ s.st = .run) :
    readResult s = none := by
  rcases h with h | h <;> simp [readResult, h]

/-- The step of a RESULT where a result or an indication is available (R115, R116). -/
theorem step_of_available_result {s : State} {r : Reply} {rest : List HostOp} (hq : s.seq ≠ 7)
    (h : resetRequested s = false) (hr : readResult s = some r) (hh : s.host = .result :: rest) :
    step s = .next (deliver r (popHost (popResetLine s))) := by
  have hr' : readResult (popHost (popResetLine s)) = some r := hr
  rw [step_of_result hq h (by rw [hh]; rfl), takeResult_of_some hr']

/-- The step of a RESULT where nothing is available (R116). -/
theorem step_of_unavailable_result {s : State} {rest : List HostOp} (hq : s.seq ≠ 7)
    (h : resetRequested s = false) (hr : readResult s = none) (hh : s.host = .result :: rest) :
    step s = .next (popHost (popResetLine s)) := by
  have hr' : readResult (popHost (popResetLine s)) = none := hr
  rw [step_of_result hq h (by rw [hh]; rfl), takeResult_of_none hr']

/-- The step of a SUBMIT that is not accepted (R110). -/
theorem step_of_rejected_submit {s : State} {c : Command} {rest : List HostOp} (hq : s.seq ≠ 7)
    (h : resetRequested s = false) (hst : s.st = .run) (hh : s.host = .submit c :: rest) :
    step s = .next (popHost (popResetLine s)) := by
  have hst' : (popHost (popResetLine s)).st = .run := hst
  rw [step_of_submit hq h (by rw [hh]; rfl), submit_of_run hst']

/-- The step of an accepted, well-formed SUBMIT (R112). -/
theorem step_of_wellFormed_submit {s : State} {c : Command} {rest : List HostOp}
    (hq : s.seq ≠ 7) (h : resetRequested s = false) (hst : s.st ≠ .run)
    (hh : s.host = .submit c :: rest) (hc : c.n = 19) :
    step s = .next
      (loadTransaction (Direction.ofCode c.dir) c.d (popHost (popResetLine s))) := by
  have hst' : (popHost (popResetLine s)).st ≠ .run := hst
  rw [step_of_submit hq h (by rw [hh]; rfl), submit_of_wellFormed hst' hc]

/-- The step of an accepted, malformed SUBMIT (R111, R131). -/
theorem step_of_malformed_submit {s : State} {c : Command} {rest : List HostOp}
    (hq : s.seq ≠ 7) (h : resetRequested s = false) (hst : s.st ≠ .run)
    (hh : s.host = .submit c :: rest) (hc : c.n ≠ 19) :
    step s = .next (raiseShapeError (popHost (popResetLine s))) := by
  have hst' : (popHost (popResetLine s)).st ≠ .run := hst
  rw [step_of_submit hq h (by rw [hh]; rfl), submit_of_malformed hst' hc]

/-- A command accepted and well-formed (R112, R117, R118). -/
theorem issueCommand_of_wellFormed {c : Command} {s : State} (hr : s.st ≠ .run) (hn : c.n = 19) :
    issueCommand c s =
      pushHost .awaitResult (loadTransaction (Direction.ofCode c.dir) c.d s) := by
  rw [issueCommand_of_ready hr, submit_of_wellFormed hr hn]

/-- A command accepted and malformed (R111, R118). -/
theorem issueCommand_of_malformed {c : Command} {s : State} (hr : s.st ≠ .run) (hn : c.n ≠ 19) :
    issueCommand c s = pushHost .awaitResult (raiseShapeError s) := by
  rw [issueCommand_of_ready hr, submit_of_malformed hr hn]

/-! ## Replies in `RUN` -/

/-- What the adapter itself replies in the coming step: ShapeError for a buffer that has no command
(R41, log entry 11). -/
def adapterReplies (s : State) : List Reply :=
  match s.host.head? with
  | some (.call dir bytes) =>
    if adapt dir bytes (freeBuffer s.draws) = none then [.shapeError] else []
  | _ => []

/-- What a step in `RUN` delivers: the adapter's reply, if RESET does not coincide, and nothing of the
engine (R116). -/
theorem step_replies_of_run {s t : State} (hs : s.st = .run) (h : step s = .next t) :
    t.replies = (if resetRequested s then [] else adapterReplies s) ++ s.replies := by
  have hq : s.seq ≠ 7 := seq_ne_seven_of_step h
  cases hr : resetRequested s with
  | true =>
    rw [step_of_reset hq hr] at h
    cases h
    simp
  | false =>
    have turn (hl : LeavesTurn s) : t.replies = s.replies := by
      rcases seq_le_five_or_eq_six hq with hle | hsix
      · rw [step_of_engine_turn hl hs hle] at h
        cases h
        simp
      · rw [step_of_six hl hs hsix] at h
        cases h
    cases ho : s.host.head? with
    | none => simpa [adapterReplies, ho] using turn ⟨hr, .inl ho⟩
    | some op =>
      cases op with
      | idle => simpa [adapterReplies, ho] using turn ⟨hr, .inr (.inl ho)⟩
      | awaitResult => simpa [adapterReplies, ho] using turn ⟨hr, .inr (.inr ho)⟩
      | submit c =>
        rw [step_of_submit hq hr ho] at h
        cases h
        simp [adapterReplies, ho]
      | command c =>
        rw [step_of_command hq hr ho] at h
        cases h
        simp [adapterReplies, ho]
      | result =>
        have hnone : readResult (popHost (popResetLine s)) = none :=
          readResult_of_idle_or_run (.inr hs)
        rw [step_of_result hq hr ho, takeResult_of_none hnone] at h
        cases h
        simp [adapterReplies, ho]
      | call dir bytes =>
        rw [step_of_call hq hr ho] at h
        cases ha : adapt dir bytes (freeBuffer s.draws) with
        | none =>
          rw [ha] at h
          cases h
          simp [adapterReplies, ho, ha]
        | some c =>
          rw [ha] at h
          cases h
          simp [adapterReplies, ho, ha]

/-- Whether a step has a next state does not depend on the buffer. -/
theorem step_next_withBuf (b : Buffer) {s t : State} (h : step s = .next t) :
    ∃ t', step (withBuf b s) = .next t' := by
  have hq : s.seq ≠ 7 := seq_ne_seven_of_step h
  refine step_next_of_seq_legal (s := withBuf b s) hq ?_
  rintro ⟨hl, hst, hsix⟩
  rw [step_of_six (s := s) hl hst hsix] at h
  cases h

/-- Outside `DONE` what a step delivers does not depend on the buffer (R116). -/
theorem step_replies_withBuf (b : Buffer) {s t : State} (hs : s.st ≠ .done)
    (h : step s = .next t) : ∃ t', step (withBuf b s) = .next t' ∧ t'.replies = t.replies := by
  have hidden (hhid : BufHidden s) :
      ∃ t', step (withBuf b s) = .next t' ∧ t'.replies = t.replies := by
    obtain ⟨t', ht', hrel⟩ := step_withBuf b hhid h
    obtain ⟨hreplies, -⟩ := hrel.observed
    exact ⟨t', ht', hreplies⟩
  cases hst : s.st with
  | idle => exact hidden (.inl hst)
  | err => exact hidden (.inr hst)
  | done => exact absurd hst hs
  | run =>
    obtain ⟨t', ht'⟩ := step_next_withBuf b h
    refine ⟨t', ht', ?_⟩
    rw [step_replies_of_run hst h, step_replies_of_run (s := withBuf b s) hst ht']
    rfl

/-! ## Runs of waits and of RESULTs -/

theorem run_succ_of_next {k : Nat} {s t : State} (h : step s = .next t) :
    run (k + 1) s = run k t := by
  simp [run, h]

/-- `s` after `k` steps that move only the Host's two lists on. -/
def elapsed (k : Nat) (s : State) : State :=
  { s with resetLine := s.resetLine.drop k, host := s.host.drop k }

theorem popHost_popResetLine_elapsed (k : Nat) (s : State) :
    popHost (popResetLine (elapsed k s)) = elapsed (k + 1) s := by
  simp [elapsed, popHost, popResetLine]

/-- The Host does nothing in the coming step. -/
def HostIdles (ops : List HostOp) : Prop := ops.head? = none ∨ ops.head? = some .idle

/-- Outside `RUN`, waiting steps (R122, log entry 7). -/
theorem run_idle {s : State} (hq : s.seq ≠ 7) (hr : s.st ≠ .run) (hn : NoReset s) (k : Nat)
    (hl : ∀ i < k, HostIdles (s.host.drop i)) : run k s = .next (elapsed k s) := by
  induction k with
  | zero => rfl
  | succ k ih =>
    have hturn : step (elapsed k s) = .next (elapsed (k + 1) s) := by
      rw [step_of_idle_turn (s := elapsed k s) hq
        (resetRequested_of_all_false (noReset_drop hn k)) (hl k k.lt_succ_self) hr,
        popHost_popResetLine_elapsed]
    rw [run_add_of_next (ih fun i hi => hl i (by omega)), run_one, hturn]

/-- A Host with `n` idle steps before it is idle in each of them. -/
theorem hostIdles_replicate {i n : Nat} (h : i < n) (rest : List HostOp) :
    HostIdles ((List.replicate n HostOp.idle ++ rest).drop i) := by
  right
  rw [List.head?_drop, List.getElem?_append_left (by simpa using h), List.getElem?_replicate,
    if_pos h]

/-- A Host with `n` idle steps before it leaves the Engine `n` turns. -/
theorem hostLeavesTurn_replicate {i n : Nat} (h : i < n) (rest : List HostOp) :
    HostLeavesTurn (hostAfterTurn^[i] (List.replicate n .idle ++ rest)) := by
  obtain ⟨j, rfl⟩ := Nat.exists_eq_add_of_lt h
  rw [Nat.add_assoc, hostAfterTurn_idle, List.replicate_succ]
  exact .inr (.inl rfl)

/-- RESULTs in a row all return what is available, and change no state of the engine (R115,
R116). -/
theorem run_results {s : State} {r : Reply} (m : Nat) (hq : s.seq ≠ 7) (hn : NoReset s)
    (hr : readResult s = some r) (hh : s.host = List.replicate m .result) :
    ∃ t, run m s = .next t ∧ EngineKept s t ∧ t.replies = List.replicate m r ++ s.replies := by
  induction m generalizing s with
  | zero => exact ⟨s, rfl, ⟨rfl, rfl, rfl, rfl⟩, rfl⟩
  | succ m ih =>
    have hstep := step_of_available_result hq (resetRequested_of_all_false hn) hr hh
    set u := deliver r (popHost (popResetLine s))
    have hhost : u.host = List.replicate m .result := by simp [u, hh, List.replicate_succ]
    have hreset : NoReset u := noReset_tail hn
    obtain ⟨t, hrun, hkept, hreplies⟩ := ih (s := u) hq hreset hr hhost
    refine ⟨t, (run_succ_of_next hstep).trans hrun, hkept, ?_⟩
    rw [hreplies, List.replicate_succ', List.append_assoc]
    rfl

/-! ## From a SUBMIT to its reply -/

theorem afterTurns_st_of_le_five {k : Nat} (hk : k ≤ 5) (s : State) :
    (afterTurns s k).st = .run :=
  if_neg (by omega)

theorem afterTurns_seq_toNat {k : Nat} (hk : k ≤ 6) (s : State) :
    ((afterTurns s k).seq).toNat = k :=
  Nat.mod_eq_of_lt (by omega)

theorem afterTurns_six_st_ne_run (s : State) : (afterTurns s 6).st ≠ .run :=
  show Status.done ≠ .run by decide

theorem afterTurns_six_seq_ne_seven (s : State) : (afterTurns s 6).seq ≠ 7 :=
  show (6 : BitVec 3) ≠ 7 by decide

theorem raiseShapeError_st_ne_run (s : State) : (raiseShapeError s).st ≠ .run :=
  show Status.err ≠ .run by decide

/-- The reply to a well-formed command (R114 to R118). -/
theorem replyOf_of_wellFormed {c : Command} (hc : c.n = 19) :
    replyOf c = .data (sequenceOf (Direction.ofCode c.dir) c.d) := by
  unfold replyOf
  rw [if_pos hc]
  cases Direction.ofCode c.dir <;> rfl

theorem replyOf_of_malformed {c : Command} (hc : c.n ≠ 19) : replyOf c = .shapeError :=
  if_neg hc

/-- A loaded transaction whose Host leaves the Engine six turns and then does nothing: the six stages,
and waiting steps (R114, R122). -/
theorem run_turns_and_wait {u : State} (hs : u.st = .run) (hq : u.seq = 0) (hn : NoReset u)
    (k : Nat) (hl : ∀ i < 6, HostLeavesTurn (hostAfterTurn^[i] u.host))
    (hw : ∀ i < k, HostIdles ((hostAfterTurn^[6] u.host).drop i)) :
    run (6 + k) u = .next (elapsed k (afterTurns u 6)) := by
  rw [run_add_of_next (run_turns hs hq hn 6 le_rfl hl)]
  exact run_idle (afterTurns_six_seq_ne_seven u) (afterTurns_six_st_ne_run u)
    (noReset_drop hn 6) k hw

/-- The reply `r` to the Host's SUBMIT is available in `t`, and the Host goes on with `rest`. -/
def ReplyAwaits (r : Reply) (rest : List HostOp) (t : State) : Prop :=
  readResult t = some r ∧ t.host = rest ∧ NoReset t ∧ t.seq ≠ 7

/-- A well-formed SUBMIT and six or more idle steps (R112, R114, R120). -/
theorem run_wellFormed_submit_and_wait {s : State} {c : Command} {rest : List HostOp} (k : Nat)
    (hq : s.seq ≠ 7) (hst : s.st ≠ .run) (hn : NoReset s) (hc : c.n = 19)
    (hh : s.host = .submit c :: (List.replicate (6 + k) .idle ++ rest)) :
    ∃ t, run (6 + k + 1) s = .next t ∧ t.replies = s.replies ∧
      ReplyAwaits (replyOf c) rest t := by
  have hload := step_of_wellFormed_submit hq (resetRequested_of_all_false hn) hst hh hc
  set u := loadTransaction (Direction.ofCode c.dir) c.d (popHost (popResetLine s))
  have hreset : NoReset u := noReset_tail hn
  have hhost : u.host = List.replicate (6 + k) .idle ++ rest := by simp [u, hh]
  have hhost' : hostAfterTurn^[6] u.host = List.replicate k .idle ++ rest := by
    rw [hhost, hostAfterTurn_idle]
  have hrun : run (6 + k) u = .next (elapsed k (afterTurns u 6)) := by
    refine run_turns_and_wait rfl rfl hreset k (fun i hi => ?_) fun i hi => ?_
    · rw [hhost]
      exact hostLeavesTurn_replicate (by omega) rest
    · rw [hhost']
      exact hostIdles_replicate hi rest
  have hreset' : NoReset (afterTurns u 6) := noReset_drop hreset 6
  refine ⟨_, (run_succ_of_next hload).trans hrun, rfl, ?_, ?_, noReset_drop hreset' k,
    afterTurns_six_seq_ne_seven u⟩
  · rw [readResult_of_done rfl, replyOf_of_wellFormed hc, ← bufAfter_six]
    rfl
  · simp [elapsed, afterTurns, hhost']

/-- A malformed SUBMIT and any idle steps (R111, R120). -/
theorem run_malformed_submit_and_wait {s : State} {c : Command} {rest : List HostOp} (k : Nat)
    (hq : s.seq ≠ 7) (hst : s.st ≠ .run) (hn : NoReset s) (hc : c.n ≠ 19)
    (hh : s.host = .submit c :: (List.replicate k .idle ++ rest)) :
    ∃ t, run (k + 1) s = .next t ∧ t.replies = s.replies ∧ ReplyAwaits (replyOf c) rest t := by
  have hraise := step_of_malformed_submit hq (resetRequested_of_all_false hn) hst hh hc
  set u := raiseShapeError (popHost (popResetLine s))
  have hreset : NoReset u := noReset_tail hn
  have hhost : u.host = List.replicate k .idle ++ rest := by simp [u, hh]
  have hrun : run k u = .next (elapsed k u) :=
    run_idle (s := u) hq (raiseShapeError_st_ne_run _) hreset k fun i hi => by
      rw [hhost]
      exact hostIdles_replicate hi rest
  refine ⟨_, (run_succ_of_next hraise).trans hrun, rfl, ?_, by simp [elapsed, hhost],
    noReset_drop hreset k, hq⟩
  rw [readResult_of_err rfl, replyOf_of_malformed hc]

/-- A SUBMIT and six or more idle steps: whatever was declared, the reply to it is available
(R120). -/
theorem run_submit_and_wait {s : State} {c : Command} {rest : List HostOp} (k : Nat)
    (hq : s.seq ≠ 7) (hst : s.st ≠ .run) (hn : NoReset s)
    (hh : s.host = .submit c :: (List.replicate (6 + k) .idle ++ rest)) :
    ∃ t, run (7 + k) s = .next t ∧ t.replies = s.replies ∧ ReplyAwaits (replyOf c) rest t := by
  rw [show 7 + k = 6 + k + 1 by omega]
  by_cases hc : c.n = 19
  · exact run_wellFormed_submit_and_wait k hq hst hn hc hh
  · exact run_malformed_submit_and_wait (6 + k) hq hst hn hc hh

/-- An accepted, malformed command of either direction: its SUBMIT, and the indication (R111, R116,
R118). -/
theorem run_malformed_command {s : State} {c : Command} {rest : List HostOp} (hq : s.seq ≠ 7)
    (hst : s.st ≠ .run) (hn : NoReset s) (hc : c.n ≠ 19) (hh : s.host = .command c :: rest) :
    ∃ t, run 2 s = .next t ∧ t.replies = .shapeError :: s.replies ∧ t.st = .err ∧
      t.buf = s.buf ∧ t.dir = s.dir ∧ t.seq = s.seq ∧ t.host = rest := by
  have hst' : (popHost (popResetLine s)).st ≠ .run := hst
  have hissue : step s =
      .next (pushHost .awaitResult (raiseShapeError (popHost (popResetLine s)))) := by
    rw [step_of_command hq (resetRequested_of_all_false hn) (by rw [hh]; rfl),
      issueCommand_of_malformed hst' hc]
  set u := pushHost .awaitResult (raiseShapeError (popHost (popResetLine s)))
  have hreset : NoReset u := noReset_tail hn
  have havailable : readResult (popHost (popResetLine u)) = some .shapeError :=
    readResult_of_err rfl
  have hindicate : step u = .next (deliver .shapeError (popHost (popResetLine u))) := by
    rw [step_of_wait_over (s := u) hq (resetRequested_of_all_false hreset) rfl
      (raiseShapeError_st_ne_run (popHost (popResetLine s))), takeResult_of_some havailable]
  have hrun : run 2 s = .next (deliver .shapeError (popHost (popResetLine u))) :=
    calc run 2 s = run 1 u := run_succ_of_next hissue
      _ = step u := run_one u
      _ = _ := hindicate
  exact ⟨_, hrun, rfl, rfl, rfl, rfl, rfl, by simp [u, hh]⟩

end Sys2Proof.Machine
end

section
/-! PROOFS. The obligations of the sequencer and the commands (R110 to R120). -/

namespace Sys2Proof.Machine

/-- Settles O22: inside the row the step is the entry's stage function and the advance; outside `RUN`
it is a wait, which may end with a reply. -/
theorem engineStepAppliesOneStage : Obligations.EngineStepAppliesOneStage := by
  refine ⟨fun s hl hst hq => ?_, fun s hl hst hq => step_of_turn_outside_run hq hl hst⟩
  obtain ⟨code, hcode⟩ := fetchCode_of_le hq
  refine ⟨code, microAt s.dir s.seq.toNat, applyStage (stageAt s.dir s.seq.toNat) (turnState s), _,
    hcode, decodeU_of_fetchCode hcode, exec_microAt _ _ _, applyStage_onlyBufChanges _ _,
    step_of_engine_turn hl hst hq, rfl, ?_, ?_, by simp, by simp⟩
  · simpa using seq_add_one_toNat hq
  · simp [hst]

/-- Settles O23: the SUBMIT loads the transaction, the Host's list is then empty, so the Engine takes
its six turns and the machine waits. -/
theorem transactionCompletesInSixSteps : Obligations.TransactionCompletesInSixSteps := by
  refine ⟨fun s c hq hst hn hh hc => ?_, fun s hl hst hq => ?_⟩
  · have hload := step_of_wellFormed_submit hq (resetRequested_of_all_false hn) hst hh hc
    set u := loadTransaction (Direction.ofCode c.dir) c.d (popHost (popResetLine s))
    have hreset : NoReset u := noReset_tail hn
    have hnil (i : Nat) : hostAfterTurn^[i] u.host = [] := by
      rw [show u.host = [] by simp [u, hh], hostAfterTurn_nil]
    have hturn (i : Nat) : HostLeavesTurn (hostAfterTurn^[i] u.host) := .inl (by rw [hnil]; rfl)
    have hidle (i : Nat) : HostIdles ((hostAfterTurn^[6] u.host).drop i) :=
      .inl (by rw [hnil, List.drop_nil]; rfl)
    refine ⟨fun k hk => ⟨afterTurns u k, ?_, afterTurns_st_of_le_five hk u,
      afterTurns_seq_toNat (by omega) u, rfl⟩, fun m => ⟨elapsed m (afterTurns u 6), ?_, rfl, rfl,
      rfl, rfl, bufAfter_six _ _⟩⟩
    · rw [Nat.add_comm, run_succ_of_next hload]
      exact run_turns rfl rfl hreset k (by omega) fun i _ => hturn i
    · rw [show 7 + m = 6 + m + 1 by omega, run_succ_of_next hload]
      exact run_turns_and_wait rfl rfl hreset m (fun i _ => hturn i) fun i _ => hidle i
  · have hfive : s.seq.toNat = 5 := by rw [hq]; rfl
    refine ⟨applyStage (stageAt s.dir 5) s, _, step_of_engine_turn hl hst (by omega), ?_, ?_, ?_, ?_,
      ?_⟩
    · cases s.dir <;> rfl
    · simp [hfive]
    · simp [hq]
    · simp [hq]
    · simp

/-- Settles O26: the invariant excludes 7, and 6 in `RUN`, which is all that a step refuses. -/
theorem noSafeStateIsStuck : Obligations.NoSafeStateIsStuck := by
  intro s hs
  refine step_next_of_seq_legal (seq_ne_seven_of_controlOk hs) ?_
  rintro ⟨-, hst, hsix⟩
  have hle : s.seq.toNat ≤ 5 := (controlOk_of_run hst).mp hs
  rw [hsix] at hle
  exact absurd hle (by decide)

/-- Settles O33, the repetition by induction on the number of RESULTs. -/
theorem resultInDoneReturnsTheBuffer : Obligations.ResultInDoneReturnsTheBuffer := by
  refine ⟨fun s rest hq hr hst hh => ?_,
    fun s m hq hn hst hh => run_results m hq hn (readResult_of_done hst) hh⟩
  rw [step_of_available_result hq hr (readResult_of_done hst) hh,
    popHost_popResetLine_of_cons hh]
  rfl

/-- Settles O34: RESULT by status, and the replies of a step outside `DONE` with another buffer. -/
theorem resultOutsideDoneReturnsNoData : Obligations.ResultOutsideDoneReturnsNoData := by
  refine ⟨fun s rest hq hr hst hh => ?_, fun s rest hq hr hst hh => ?_,
    fun s t b hst h => step_replies_withBuf b hst h⟩
  · rw [step_of_available_result hq hr (readResult_of_err hst) hh,
      popHost_popResetLine_of_cons hh]
    rfl
  · rw [step_of_unavailable_result hq hr (readResult_of_idle_or_run hst) hh,
      popHost_popResetLine_of_cons hh]

/-- Settles O37: the run of a well-formed command, with `dir` 0. -/
theorem forwardCommandReturnsForward : Obligations.ForwardCommandReturnsForward := by
  refine ⟨rfl, fun s b rest hq hst hn hh => ?_⟩
  obtain ⟨t, hrun, hreply, hdone, hdir, hseq, hbuf, hhost⟩ :=
    run_wellFormed_command hq hst hn rfl hh
  exact ⟨t, hrun, hreply, hdone, hdir, hseq, hbuf, hhost⟩

/-- Settles O38: the runs of a well-formed and of a malformed command, with `dir` 1. -/
theorem invertCommandReturnsInvert : Obligations.InvertCommandReturnsInvert := by
  refine ⟨rfl, fun s f rest hq hst hn hh => ?_,
    fun s n f rest hq hst hn hc hh => run_malformed_command hq hst hn hc hh⟩
  obtain ⟨t, hrun, hreply, hdone, hdir, hseq, hbuf, hhost⟩ :=
    run_wellFormed_command hq hst hn rfl hh
  exact ⟨t, hrun, hreply, hdone, hdir, hseq, hbuf, hhost⟩

/-- Settles O40: after the wait the reply is available, and every RESULT returns it. -/
theorem replyDependsOnTheCommandOnly : Obligations.ReplyDependsOnTheCommandOnly := by
  intro c k m s hq hst hn hh
  obtain ⟨u, hwait, hreplies, havailable, hhost, hreset, hlegal⟩ :=
    run_submit_and_wait k hq hst hn hh
  obtain ⟨t, hrun, -, hall⟩ := run_results m hlegal hreset havailable hhost
  exact ⟨t, (run_add_of_next hwait).trans hrun, by rw [hall, hreplies]⟩

/-- Settles O21: the fetched code is the row's micro-operation; a command, and a call with a command,
decode to the instruction they carry. -/
theorem stepRunsTheDecodedInstruction : Obligations.StepRunsTheDecodedInstruction := by
  refine ⟨fun s code i hl hst hcode hi => ?_, fun s c rest i hq hr hh hi => ?_,
    fun s dir bytes rest c i hq hr hh ha hi => ?_⟩
  · have hmicro : i = microAt s.dir s.seq.toNat :=
      Decoded.instr.inj (hi.symm.trans (decodeU_of_fetchCode (s := s) hcode))
    rw [step_of_engine_turn hl hst (seq_le_five_of_fetchCode (s := s) hcode), hmicro, exec_microAt]
    rfl
  · rw [← Decoded.instr.inj hi, exec_decodeCommand, step_of_command hq hr (by rw [hh]; rfl),
      popHost_popResetLine_of_cons hh]
  · rw [← Decoded.instr.inj hi, exec_decodeCommand, step_of_call hq hr (by rw [hh]; rfl), ha,
      popHost_popResetLine_of_cons hh]

/-- Settles O27: the step of a well-formed SUBMIT, field by field. -/
theorem wellFormedSubmitLoads : Obligations.WellFormedSubmitLoads := by
  intro s c rest hq hr hst hh hc
  rw [step_of_wellFormed_submit hq hr hst hh hc, popHost_popResetLine_of_cons hh]
  rfl

/-- Settles O28: the step of a malformed SUBMIT, field by field. -/
theorem malformedSubmitTakesShapeError : Obligations.MalformedSubmitTakesShapeError := by
  intro s c rest hq hr hst hh hc
  rw [step_of_malformed_submit hq hr hst hh hc, popHost_popResetLine_of_cons hh]
  rfl

/-- Settles O29: in `RUN` the SUBMIT is turned away, outside it the declared length decides. -/
theorem submitIsAcceptedOnlyOutsideRun : Obligations.SubmitIsAcceptedOnlyOutsideRun := by
  refine ⟨fun s c rest hq hr hst hh => ?_, fun s c rest hq hr hst hh => ?_⟩
  · rw [step_of_rejected_submit hq hr hst hh, popHost_popResetLine_of_cons hh]
  · by_cases hc : c.n = 19
    · exact ⟨_, step_of_wellFormed_submit hq hr hst hh hc, (if_pos hc).symm⟩
    · exact ⟨_, step_of_malformed_submit hq hr hst hh hc, (if_neg hc).symm⟩

/-- Settles O36: both commands are one operation, by its three outcomes. -/
theorem commandsSubmitAndAwait : Obligations.CommandsSubmitAndAwait := by
  intro s n d
  refine ⟨fun hst hn => ?_, fun hst hn => ?_, fun hst => ?_⟩ <;> rw [exec_forward, exec_invert]
  · rw [issueCommand_of_wellFormed hst hn, issueCommand_of_wellFormed hst hn]
    exact ⟨rfl, rfl⟩
  · rw [issueCommand_of_malformed hst hn, issueCommand_of_malformed hst hn]
    exact ⟨rfl, rfl⟩
  · rw [issueCommand_of_run hst, issueCommand_of_run hst]
    exact ⟨rfl, rfl⟩

end Sys2Proof.Machine
end

section
/-! PROOFS. The one exception: how `ST` enters and leaves `ERR` (R130, R131, R133), and the order of
coinciding events (R134). -/

namespace Sys2Proof.Machine

/-! ## Into `ERR` and out of it -/

/-- A step that ends in `ERR` began there or accepted a malformed SUBMIT (R130). -/
theorem err_or_accepted_malformed_of_step {s t : State} (h : step s = .next t) (ht : t.st = .err) :
    s.st = .err ∨ ∃ c, Accepts s c ∧ c.n ≠ 19 := by
  obtain ⟨-, transitions⟩ := statusFollowsTheTransitionTable
  rcases transitions s t h with hkept | ⟨-, hidle⟩ | ⟨c, ha, hst⟩ | ⟨-, -, -, -, hdone⟩
  · exact .inl (hkept.symm.trans ht)
  · simp [ht] at hidle
  · exact .inr ⟨c, ha, fun hn => by simp [hn, ht] at hst⟩
  · simp [ht] at hdone

/-- A step from `ERR` stays there, is RESET, or accepts a well-formed SUBMIT (R133). -/
theorem err_or_reset_or_accepted_wellFormed_of_step {s t : State} (hs : s.st = .err)
    (h : step s = .next t) :
    t.st = .err ∨ resetRequested s = true ∨ ∃ c, Accepts s c ∧ c.n = 19 ∧ t.st = .run := by
  obtain ⟨-, transitions⟩ := statusFollowsTheTransitionTable
  rcases transitions s t h with hkept | ⟨hr, -⟩ | ⟨c, ha, hst⟩ | ⟨-, hrun, -⟩
  · exact .inl (hkept.trans hs)
  · exact .inr (.inl hr)
  · by_cases hn : c.n = 19
    · exact .inr (.inr ⟨c, ha, hn, hst.trans (if_pos hn)⟩)
    · exact .inl (hst.trans (if_neg hn))
  · simp [hs] at hrun

/-- The cause code of R130. -/
theorem rspErr_eq_one_iff (s : State) : rspErr s = 1 ↔ s.st = .err := by
  by_cases h : s.st = .err <;> simp [rspErr, h]

/-- An accepted SUBMIT overwrites the status and does not read it further (R111, R112). -/
theorem submit_withStatus {c : Command} {s : State} {st : Status} (hs : s.st ≠ .run)
    (hst : st ≠ .run) : submit c { s with st := st } = submit c s := by
  by_cases hn : c.n = 19
  · rw [submit_of_wellFormed hs hn, submit_of_wellFormed (s := { s with st := st }) hst hn]
    rfl
  · rw [submit_of_malformed hs hn, submit_of_malformed (s := { s with st := st }) hst hn]
    rfl

/-- The step of an accepted SUBMIT is the same from every status that accepts it (R133). -/
theorem step_of_submit_withStatus {s : State} {c : Command} {st : Status} (hq : s.seq ≠ 7)
    (hr : resetRequested s = false) (hs : s.st ≠ .run) (hst : st ≠ .run)
    (ho : s.host.head? = some (.submit c)) : step { s with st := st } = step s := by
  rw [step_of_submit hq hr ho, step_of_submit (s := { s with st := st }) hq hr ho]
  exact congrArg _ (submit_withStatus (s := popHost (popResetLine s)) hs hst)

/-! ## RESET and the Host -/

/-- The engine's state after RESET does not depend on what the Host was doing (R134, log entries 3 and
14). -/
theorem engineKept_resetEvent_withHost (s : State) (ops : List HostOp) :
    EngineKept (resetEvent (popHost (popResetLine s)))
      (resetEvent (popHost (popResetLine { s with host := ops }))) :=
  ⟨rfl, rfl, rfl, rfl⟩

/-- A SUBMIT is acceptable exactly where no engine step is enabled (R110, R113). -/
theorem cmdReady_eq_not_engineEnabled (s : State) : cmdReady s = !engineEnabled s := by
  rw [Bool.eq_not, Ne, Bool.eq_iff_iff, cmdReady_iff, engineEnabled_iff]
  exact not_iff_self

end Sys2Proof.Machine
end

section
/-! PROOFS. The obligations of the exception rules (R130, R133, R134). -/

namespace Sys2Proof.Machine

/-- Settles O30: a step into `ERR` by the transitions of `ST`, and a malformed SUBMIT whose whole
effect is the raise. -/
theorem onlyMalformedSubmitRaisesShapeError : Obligations.OnlyMalformedSubmitRaisesShapeError := by
  refine ⟨fun s t h hs ht => (err_or_accepted_malformed_of_step h ht).resolve_left hs,
    rspErr_eq_one_iff, fun s c c' hs hn hn' => ⟨submit_malformed_congr s hn hn', ?_⟩⟩
  rw [submit_of_malformed hs hn, raiseShapeError_st]

/-- Settles O31: the steps from `ERR` by the transitions of `ST`; an accepted SUBMIT does not tell
`ERR` from `IDLE`, and in `RUN` none is accepted. -/
theorem errIsLeftBySubmitOrReset : Obligations.ErrIsLeftBySubmitOrReset := by
  refine ⟨fun s t => err_or_reset_or_accepted_wellFormed_of_step,
    fun s c rest hq hs hr hh => ?_, fun s t hs h ht => ?_⟩
  · have hready : s.st ≠ .run := by simp [hs]
    obtain ⟨-, accepted⟩ := submitIsAcceptedOnlyOutsideRun
    exact ⟨(step_of_submit_withStatus hq hr hready (by decide) (by rw [hh]; rfl)).symm,
      accepted s c rest hq hr hready hh⟩
  · rcases err_or_accepted_malformed_of_step h ht with herr | ⟨c, ⟨-, hready, -, -⟩, -⟩
    · simp [hs] at herr
    · exact hready hs

/-- Settles O42: RESET is taken before the Host's operation is looked at, and SUBMIT tests `ST` before
the declared length. -/
theorem resetHasPriorityAndAcceptanceComesFirst :
    Obligations.ResetHasPriorityAndAcceptanceComesFirst := by
  refine ⟨fun s ops hq hr => ?_, fun _ _ hs _ => submit_of_run hs, cmdReady_eq_not_engineEnabled⟩
  exact ⟨_, _, step_of_reset hq hr, step_of_reset (s := { s with host := ops }) hq hr, rfl,
    engineKept_resetEvent_withHost s ops, rfl, rfl⟩

end Sys2Proof.Machine
end

section
/-! PROOFS. After a RESET: the machine in `IDLE` while the Host only waits or asks for a result (R116,
R151, log entries 7 and 12). -/

namespace Sys2Proof.Machine

/-- The Host submits nothing: it does nothing, performs RESULT or waits for a result. -/
def HostListens (ops : List HostOp) : Prop :=
  ∀ op ∈ ops, op = .idle ∨ op = .result ∨ op = .awaitResult

theorem HostListens.drop {ops : List HostOp} (h : HostListens ops) (k : Nat) :
    HostListens (ops.drop k) :=
  fun op hop => h op (List.mem_of_mem_drop hop)

/-- In `IDLE` no operation of a listening Host returns anything, so only its lists move on (R116, log
entries 7 and 12). -/
theorem step_of_listening_in_idle {s : State} (hq : s.seq ≠ 7) (hst : s.st = .idle)
    (hr : resetRequested s = false) (hl : HostListens s.host) :
    step s = .next (popHost (popResetLine s)) := by
  have hready : s.st ≠ .run := by simp [hst]
  have hnone : takeResult (popHost (popResetLine s)) = popHost (popResetLine s) :=
    takeResult_of_none (readResult_of_idle_or_run (.inl hst))
  cases ho : s.host.head? with
  | none => exact step_of_idle_turn hq hr (.inl ho) hready
  | some op =>
    rcases hl op (List.mem_of_head? ho) with rfl | rfl | rfl
    · exact step_of_idle_turn hq hr (.inr ho) hready
    · rw [step_of_result hq hr ho, hnone]
    · rw [step_of_wait_over hq hr ho hready, hnone]

/-- A run in `IDLE` under a listening Host and no RESET moves only the Host's lists on (R116). -/
theorem run_listening_in_idle {s : State} (hq : s.seq ≠ 7) (hst : s.st = .idle) (hn : NoReset s)
    (hl : HostListens s.host) (k : Nat) : run k s = .next (elapsed k s) := by
  induction k with
  | zero => rfl
  | succ k ih =>
    have hlast : step (elapsed k s) = .next (elapsed (k + 1) s) := by
      rw [step_of_listening_in_idle (s := elapsed k s) hq hst
        (resetRequested_of_all_false (noReset_drop hn k)) (hl.drop k),
        popHost_popResetLine_elapsed]
    rw [run_add_of_next ih, run_one, hlast]

end Sys2Proof.Machine
end

section
/-! PROOFS. The obligations of the reset rules and of how long a result lasts (R150, R151, R154). -/

namespace Sys2Proof.Machine

/-- Settles O41: the control fields of the RESET event, in `IDLE` and so ready for a SUBMIT. -/
theorem resetSetsTheControlFields : Obligations.ResetSetsTheControlFields :=
  fun _ hq hr => ⟨_, step_of_reset hq hr, rfl, rfl, rfl, rfl, rfl, rfl, rfl⟩

/-- Settles O35: of the five things a step can be, the Engine's step does not start in `DONE`, and a
kept state keeps the result. -/
theorem resultLastsUntilSubmitOrReset : Obligations.ResultLastsUntilSubmitOrReset := by
  intro s t hdone h
  cases step_effect h with
  | reset hr ht => exact .inr (.inl ⟨hr, by simp [ht]⟩)
  | load c ha hn hb hd hq hst hp => exact .inr (.inr ⟨c, ha, .inl ⟨hn, hst, hb⟩⟩)
  | shape c ha hn hb hd hq hst hp =>
    exact .inr (.inr ⟨c, ha, .inr ⟨hn, hst, hb, readResult_of_err hst⟩⟩)
  | engine hl hst hq ht => simp [hdone] at hst
  | kept hr hk hp =>
    obtain ⟨hbuf, hstatus, -, -⟩ := hk
    exact .inl ⟨hstatus.trans hdone, hbuf⟩

/-- Settles O43: RESET leaves `IDLE`, where a run under a listening Host moves only the Host's lists
on. -/
theorem resetAbandonsTheTransaction : Obligations.ResetAbandonsTheTransaction := by
  intro s hq hr hn hl
  have hreset := step_of_reset hq hr
  set u := resetEvent (popHost (popResetLine s))
  refine ⟨u, hreset, rfl, rfl, rfl, rfl, fun k => ⟨elapsed k u, ?_, ⟨rfl, rfl, rfl, rfl⟩, rfl⟩⟩
  have hlegal : u.seq ≠ 7 := show (0 : BitVec 3) ≠ 7 by decide
  rw [Nat.add_comm, run_succ_of_next hreset]
  exact run_listening_in_idle hlegal rfl hn hl k

end Sys2Proof.Machine
end
